-- ==== Sys2Proof/Word.lean ====
section
/-! DEFINITION. The byte, the 64-bit word, and the eight bytes that literals, arrays and sprite rows are made of. -/

namespace Sys2Proof

/-- A byte: 8 bits, unsigned unless a rule says otherwise (R15). -/
abbrev Byte := BitVec 8

/-- 64 bits: a cell's number, a jump target, the cursor (R15, R36). -/
abbrev Word := BitVec 64

/-- Eight bytes in program order, `b0` first: a payload, or the slots 0 to 7 of an array cell (R16, R59). -/
structure Octet where
  b0 : Byte
  b1 : Byte
  b2 : Byte
  b3 : Byte
  b4 : Byte
  b5 : Byte
  b6 : Byte
  b7 : Byte
deriving DecidableEq, Repr

/-- The eight bytes as a list, lowest slot first. -/
def Octet.toList (o : Octet) : List Byte :=
  [o.b0, o.b1, o.b2, o.b3, o.b4, o.b5, o.b6, o.b7]

/-- Eight times the same byte. -/
def Octet.splat (b : Byte) : Octet :=
  ⟨b, b, b, b, b, b, b, b⟩

end Sys2Proof
end

