-- ==== Sys2Proof/Syntax.lean ====
section
/-! DEFINITION. The 25 instructions of the body, one constructor per row of spec/opcode_table.json. -/

namespace Sys2Proof

/-- A body instruction with its operands in program order (R72).
Operands are kept as the bytes the program holds: what a byte means (an address, a colour, a key, a tag) is
decided when the instruction executes (R78, R87). -/
inductive Instr where
  /-- R113. -/
  | nop
  /-- R119: literal coordinates and a colour byte. -/
  | pixelLit (x y colorByte : Byte)
  /-- R121: coordinate cells and a colour byte. -/
  | pixelMem (xAddr yAddr colorByte : Byte)
  /-- R123: eight source cells and two origin cells. -/
  | spriteBlit (srcs : Octet) (xAddr yAddr : Byte)
  /-- R130. -/
  | fdiv (lhs rhs dest : Byte)
  /-- R128. -/
  | fsub (lhs rhs dest : Byte)
  /-- R127. -/
  | fadd (lhs rhs dest : Byte)
  /-- R129. -/
  | fmul (lhs rhs dest : Byte)
  /-- R135. -/
  | div (lhs rhs dest : Byte)
  /-- R133. -/
  | sub (lhs rhs dest : Byte)
  /-- R132. -/
  | add (lhs rhs dest : Byte)
  /-- R134. -/
  | mul (lhs rhs dest : Byte)
  /-- R136, `NOT`. -/
  | notCell (src dest : Byte)
  /-- R138. -/
  | gt (lhs rhs dest : Byte)
  /-- R139. -/
  | lt (lhs rhs dest : Byte)
  /-- R142. -/
  | varSet (typeTag : Byte) (payload : Octet) (dest : Byte)
  /-- R143, `LET`. -/
  | letCell (typeTag : Byte) (payload : Octet) (dest : Byte)
  /-- R144. -/
  | arrayWrite (arrAddr index value : Byte)
  /-- R147. -/
  | tjmp (condAddr : Byte) (offset : Word)
  /-- R148. -/
  | fjmp (condAddr : Byte) (offset : Word)
  /-- R149. -/
  | jmp (offset : Word)
  /-- R150. -/
  | vjmp (memAddr : Byte)
  /-- R152. -/
  | key (keycodeByte dest : Byte)
  /-- R153. -/
  | render
  /-- R154. -/
  | clear (colorByte : Byte)
deriving DecidableEq, Repr

end Sys2Proof
end

