-- ==== Sys2Proof/Decode.lean ====
section
/-! DEFINITION. Instruction decode and encode (30_encoding.md R70 to R76, R85, R86): total on any bytes,
rejecting by name. -/

namespace Sys2Proof

/-- The unsigned number of eight bytes, the first the least significant (R16, R58). -/
def le64 (o : Octet) : Word :=
  BitVec.ofNat 64
    (o.b0.toNat + o.b1.toNat * 2 ^ 8 + o.b2.toNat * 2 ^ 16 + o.b3.toNat * 2 ^ 24 + o.b4.toNat * 2 ^ 32
      + o.b5.toNat * 2 ^ 40 + o.b6.toNat * 2 ^ 48 + o.b7.toNat * 2 ^ 56)

/-- Byte `k` of a number, byte 0 the least significant. -/
def byteOfNat (n k : Nat) : Byte :=
  BitVec.ofNat 8 (n / 2 ^ (8 * k))

/-- The eight bytes of a 64-bit word, the least significant first (R58). -/
def bytes64 (w : Word) : Octet :=
  ⟨byteOfNat w.toNat 0, byteOfNat w.toNat 1, byteOfNat w.toNat 2, byteOfNat w.toNat 3,
   byteOfNat w.toNat 4, byteOfNat w.toNat 5, byteOfNat w.toNat 6, byteOfNat w.toNat 7⟩

/-- Why bytes are no instruction. -/
inductive DecodeError where
  /-- No byte remains at the opcode position: not a fault, the pass ends (R106). -/
  | noBytes
  /-- The opcode byte is none of the 25 (R86, R104). -/
  | unknownOpcode (op : Byte)
  /-- A known opcode with only `present` operand bytes after it, fewer than it needs (R105). -/
  | truncated (op : Byte) (present : Nat)
deriving DecidableEq, Repr

/-- What decoding answers: an instruction and the bytes after it, or a reason by name. -/
abbrev Decoded := Except DecodeError (Instr × List Byte)

/-- Format `A`: one operand byte (R71). -/
def formatA (op : Byte) (mk : Byte → Instr) : List Byte → Decoded
  | a :: rest => .ok (mk a, rest)
  | short => .error (.truncated op short.length)

/-- Format `AA`: two operand bytes (R71). -/
def formatAA (op : Byte) (mk : Byte → Byte → Instr) : List Byte → Decoded
  | a :: b :: rest => .ok (mk a b, rest)
  | short => .error (.truncated op short.length)

/-- Format `AAA`: three operand bytes (R71). -/
def formatAAA (op : Byte) (mk : Byte → Byte → Byte → Instr) : List Byte → Decoded
  | a :: b :: c :: rest => .ok (mk a b c, rest)
  | short => .error (.truncated op short.length)

/-- Format `J`: an eight-byte little-endian offset (R71, R76). -/
def formatJ (op : Byte) (mk : Word → Instr) : List Byte → Decoded
  | t0 :: t1 :: t2 :: t3 :: t4 :: t5 :: t6 :: t7 :: rest =>
    .ok (mk (le64 ⟨t0, t1, t2, t3, t4, t5, t6, t7⟩), rest)
  | short => .error (.truncated op short.length)

/-- Format `CJ`: a condition address, then an eight-byte offset (R71, R76). -/
def formatCJ (op : Byte) (mk : Byte → Word → Instr) : List Byte → Decoded
  | a :: t0 :: t1 :: t2 :: t3 :: t4 :: t5 :: t6 :: t7 :: rest =>
    .ok (mk a (le64 ⟨t0, t1, t2, t3, t4, t5, t6, t7⟩), rest)
  | short => .error (.truncated op short.length)

/-- Format `V`: a type tag, eight payload bytes, a destination (R71). -/
def formatV (op : Byte) (mk : Byte → Octet → Byte → Instr) : List Byte → Decoded
  | t :: d0 :: d1 :: d2 :: d3 :: d4 :: d5 :: d6 :: d7 :: dest :: rest =>
    .ok (mk t ⟨d0, d1, d2, d3, d4, d5, d6, d7⟩ dest, rest)
  | short => .error (.truncated op short.length)

/-- Format `S`: eight source addresses, then the two origin addresses (R71, R73). -/
def formatS (op : Byte) (mk : Octet → Byte → Byte → Instr) : List Byte → Decoded
  | a0 :: a1 :: a2 :: a3 :: a4 :: a5 :: a6 :: a7 :: x :: y :: rest =>
    .ok (mk ⟨a0, a1, a2, a3, a4, a5, a6, a7⟩ x y, rest)
  | short => .error (.truncated op short.length)

/-- The instruction an opcode byte starts, read from the bytes after it (R72, R85, R86). -/
def decodeOperands (op : Byte) (operands : List Byte) : Decoded :=
  match op with
  | 0x00#8 => .ok (.nop, operands)
  | 0x01#8 => formatAAA op .pixelLit operands
  | 0x02#8 => formatAAA op .pixelMem operands
  | 0x03#8 => formatS op .spriteBlit operands
  | 0xF0#8 => formatAAA op .fdiv operands
  | 0xF1#8 => formatAAA op .fsub operands
  | 0xF2#8 => formatAAA op .fadd operands
  | 0xF3#8 => formatAAA op .fmul operands
  | 0xF4#8 => formatAAA op .div operands
  | 0xF5#8 => formatAAA op .sub operands
  | 0xF6#8 => formatAAA op .add operands
  | 0xF7#8 => formatAAA op .mul operands
  | 0xB0#8 => formatAA op .notCell operands
  | 0xB1#8 => formatAAA op .gt operands
  | 0xB2#8 => formatAAA op .lt operands
  | 0xA1#8 => formatV op .varSet operands
  | 0xA2#8 => formatV op .letCell operands
  | 0xA3#8 => formatAAA op .arrayWrite operands
  | 0xE1#8 => formatCJ op .tjmp operands
  | 0xE2#8 => formatCJ op .fjmp operands
  | 0xE3#8 => formatJ op .jmp operands
  | 0xE4#8 => formatA op .vjmp operands
  | 0xD0#8 => formatAA op .key operands
  | 0xFB#8 => .ok (.render, operands)
  | 0xFC#8 => formatA op .clear operands
  | _ => .error (.unknownOpcode op)

/-- The instruction at the front of the bytes, with the bytes after it (R70). -/
def decode : List Byte → Decoded
  | [] => .error .noBytes
  | op :: operands => decodeOperands op operands

/-- The opcode byte of each instruction (R72). -/
def Instr.opcode : Instr → Byte
  | .nop => 0x00#8
  | .pixelLit _ _ _ => 0x01#8
  | .pixelMem _ _ _ => 0x02#8
  | .spriteBlit _ _ _ => 0x03#8
  | .fdiv _ _ _ => 0xF0#8
  | .fsub _ _ _ => 0xF1#8
  | .fadd _ _ _ => 0xF2#8
  | .fmul _ _ _ => 0xF3#8
  | .div _ _ _ => 0xF4#8
  | .sub _ _ _ => 0xF5#8
  | .add _ _ _ => 0xF6#8
  | .mul _ _ _ => 0xF7#8
  | .notCell _ _ => 0xB0#8
  | .gt _ _ _ => 0xB1#8
  | .lt _ _ _ => 0xB2#8
  | .varSet _ _ _ => 0xA1#8
  | .letCell _ _ _ => 0xA2#8
  | .arrayWrite _ _ _ => 0xA3#8
  | .tjmp _ _ => 0xE1#8
  | .fjmp _ _ => 0xE2#8
  | .jmp _ => 0xE3#8
  | .vjmp _ => 0xE4#8
  | .key _ _ => 0xD0#8
  | .render => 0xFB#8
  | .clear _ => 0xFC#8

/-- The length in bytes of each instruction, the opcode byte included (R72). -/
def Instr.length : Instr → Nat
  | .nop => 1
  | .pixelLit _ _ _ => 4
  | .pixelMem _ _ _ => 4
  | .spriteBlit _ _ _ => 11
  | .fdiv _ _ _ => 4
  | .fsub _ _ _ => 4
  | .fadd _ _ _ => 4
  | .fmul _ _ _ => 4
  | .div _ _ _ => 4
  | .sub _ _ _ => 4
  | .add _ _ _ => 4
  | .mul _ _ _ => 4
  | .notCell _ _ => 3
  | .gt _ _ _ => 4
  | .lt _ _ _ => 4
  | .varSet _ _ _ => 11
  | .letCell _ _ _ => 11
  | .arrayWrite _ _ _ => 4
  | .tjmp _ _ => 10
  | .fjmp _ _ => 10
  | .jmp _ => 9
  | .vjmp _ => 2
  | .key _ _ => 3
  | .render => 1
  | .clear _ => 2

/-- The operand bytes of an instruction, in program order (R71, R72). -/
def Instr.operandBytes : Instr → List Byte
  | .nop => []
  | .pixelLit x y c => [x, y, c]
  | .pixelMem x y c => [x, y, c]
  | .spriteBlit srcs x y => srcs.toList ++ [x, y]
  | .fdiv l r d => [l, r, d]
  | .fsub l r d => [l, r, d]
  | .fadd l r d => [l, r, d]
  | .fmul l r d => [l, r, d]
  | .div l r d => [l, r, d]
  | .sub l r d => [l, r, d]
  | .add l r d => [l, r, d]
  | .mul l r d => [l, r, d]
  | .notCell src d => [src, d]
  | .gt l r d => [l, r, d]
  | .lt l r d => [l, r, d]
  | .varSet t d dest => t :: (d.toList ++ [dest])
  | .letCell t d dest => t :: (d.toList ++ [dest])
  | .arrayWrite a i v => [a, i, v]
  | .tjmp a t => a :: (bytes64 t).toList
  | .fjmp a t => a :: (bytes64 t).toList
  | .jmp t => (bytes64 t).toList
  | .vjmp a => [a]
  | .key k d => [k, d]
  | .render => []
  | .clear c => [c]

/-- The bytes of an instruction: its opcode byte, then its operand bytes (R70, R71). -/
def encode (i : Instr) : List Byte :=
  i.opcode :: i.operandBytes

/-- The length of the longest instruction (R72). -/
def maxLength : Nat := 11

/-- The first `n` bytes of a number, byte 0 (bits 7 to 0) first. -/
def bytesOfNat : Nat → Nat → List Byte
  | 0, _ => []
  | n + 1, w => BitVec.ofNat 8 w :: bytesOfNat n (w / 256)

/-- The bytes of a table word of `nbits` bits, with zeros above it up to the longest instruction. -/
def tableBytes (nbits w : Nat) : List Byte :=
  bytesOfNat maxLength (w % 2 ^ nbits)

/-- The instruction the decoder reads from a word numbered as spec/opcode_table.json numbers it: bit 0 is the
least significant bit of the first byte, and later bytes count on from there. -/
def decodeTableWord (nbits w : Nat) : Option Instr :=
  match decode (tableBytes nbits w) with
  | .ok (i, _) => some i
  | .error _ => none

end Sys2Proof
end

