-- ==== Sys2Proof/Machine/Sparse.lean ====
section
/-! DEFINITION. Sparse arrays: a list of (index, value) pairs with strictly rising indices, and a default `d`
for every index the list does not hold. No entry equals its default, so equal arrays are equal lists. -/

namespace Sys2Proof.Machine

variable {α : Type}

/-- The value at index `a`. -/
def sparseRead (d : Nat → α) : List (Nat × α) → Nat → α
  | [], a => d a
  | (k, v) :: rest, a => if k = a then v else sparseRead d rest a

/-- The list without index `a`. -/
def sparseErase : List (Nat × α) → Nat → List (Nat × α)
  | [], _ => []
  | (k, v) :: rest, a => if k = a then sparseErase rest a else (k, v) :: sparseErase rest a

/-- The list with `v` at index `a`, in its place. -/
def sparseInsert : List (Nat × α) → Nat → α → List (Nat × α)
  | [], a, v => [(a, v)]
  | (k, w) :: rest, a, v =>
    if a < k then (a, v) :: (k, w) :: rest
    else if a = k then (a, v) :: rest
    else (k, w) :: sparseInsert rest a v

/-- Write `v` at index `a`: writing the default removes the entry. -/
def sparseWrite [DecidableEq α] (d : Nat → α) (l : List (Nat × α)) (a : Nat) (v : α) : List (Nat × α) :=
  if v = d a then sparseErase l a else sparseInsert l a v

/-- The indices rise strictly. -/
abbrev sparseSorted (l : List (Nat × α)) : Prop :=
  (l.map Prod.fst).Pairwise (· < ·)

/-- The canonical form: rising indices, all below `n`, and no entry equal to its default. -/
abbrev sparseWf (d : Nat → α) (n : Nat) (l : List (Nat × α)) : Prop :=
  sparseSorted l ∧ (∀ e ∈ l, e.1 < n) ∧ ∀ e ∈ l, e.2 ≠ d e.1

end Sys2Proof.Machine
end

