-- ==== Sys2Proof/Config.lean ====
section
/-! DEFINITION. What an implementation fixes (00_scope.md R11 to R14) and the values the spec leaves free. -/

namespace Sys2Proof

/-- FB_WIDTH (R11, R12). -/
def fbWidth : Nat := 255

/-- CELL_COUNT: cells have the addresses 0 to 254 (R11, R28). -/
def cellCount : Nat := 255

/-- A colour. The spec names `Black` and the sentinel `Transparent` and no other (R13, R79);
`other n` stands for the colours it does not name (log 7). -/
inductive Color where
  | black
  | transparent
  | other (n : Nat)
deriving DecidableEq, Repr, Inhabited

/-- The keys of R14; `modifier n` stands for the modifier keys, which the spec does not list (log 7). -/
inductive Key where
  | q | w | e | a | s | d | z | x | c
  | up | down | left | right
  | space | escape
  | modifier (n : Nat)
deriving DecidableEq, Repr, Inhabited

/-- The four payload kinds a type tag can name; no byte decodes to EMPTY (R83). -/
inductive Tag where
  | int | float | str | bytes
deriving DecidableEq, Repr, Inhabited

/-- SPRITE_LAYOUT (R11, R122). -/
inductive SpriteLayout where
  | rowMajor
  | columnMajor
deriving DecidableEq, Repr, Inhabited

/-- The four bytes of an encoded pixel (R155). -/
inductive Channel where
  | red | green | blue | alpha
deriving DecidableEq, Repr, Inhabited

/-- The three colour bytes of a Color, COLOR_RGB (R11, R155). -/
structure Rgb where
  red : Byte
  green : Byte
  blue : Byte
deriving DecidableEq, Repr, Inhabited

/-- One row of COLOR_TABLE together with its COLOR_RGB: the byte, the Color it decodes to, its colour bytes. -/
structure ColorRow where
  code : Byte
  color : Color
  rgb : Rgb
deriving DecidableEq, Repr, Inhabited

/-- The parameters the spec leaves OPEN and has the model take as an argument (R11). -/
structure Params where
  /-- FB_HEIGHT. -/
  fbHeight : Nat
  /-- COLOR_TABLE and COLOR_RGB. -/
  colors : List ColorRow
  /-- KEY_TABLE. -/
  keys : List (Byte × Key)
  /-- TYPE_TAG_TABLE. -/
  tags : List (Byte × Tag)
  /-- SPRITE_LAYOUT. -/
  spriteLayout : SpriteLayout
  /-- PIXEL_FORMAT: the order of the four bytes of an encoded pixel. -/
  pixelFormat : List Channel
deriving DecidableEq, Repr, Inhabited

/-- The keys KEY_TABLE must contain (R14). -/
def namedKeys : List Key :=
  [.q, .w, .e, .a, .s, .d, .z, .x, .c, .up, .down, .left, .right, .space, .escape]

/-- The laws the spec puts on the parameters: a positive height (R11), an injective colour table with a Black
and exactly one Transparent (R13), an injective key table that has the named keys (R14), an injective tag table
of four bytes to the four kinds (R83), and a pixel format that orders the four bytes (R155). -/
abbrev Params.Lawful (P : Params) : Prop :=
  0 < P.fbHeight ∧
  (P.colors.map ColorRow.code).Nodup ∧
  (P.colors.map ColorRow.color).Nodup ∧
  Color.black ∈ P.colors.map ColorRow.color ∧
  Color.transparent ∈ P.colors.map ColorRow.color ∧
  (P.keys.map Prod.fst).Nodup ∧
  (P.keys.map Prod.snd).Nodup ∧
  (∀ k ∈ namedKeys, k ∈ P.keys.map Prod.snd) ∧
  (P.tags.map Prod.fst).Nodup ∧
  (P.tags.map Prod.snd).Nodup ∧
  (∀ t ∈ [Tag.int, Tag.float, Tag.str, Tag.bytes], t ∈ P.tags.map Prod.snd) ∧
  P.pixelFormat.Perm [.red, .green, .blue, .alpha]

/-- Parameters that meet the laws, in bare numbers. It shows only that the laws can be met, so that
`LawfulParams` has a member: nothing can prove that the machine's parameters are these. -/
def Params.bare : Params where
  fbHeight := 1
  colors := [⟨0, .black, ⟨0, 0, 0⟩⟩, ⟨1, .transparent, ⟨0, 0, 0⟩⟩]
  keys :=
    [(0, .q), (1, .w), (2, .e), (3, .a), (4, .s), (5, .d), (6, .z), (7, .x), (8, .c),
     (9, .up), (10, .down), (11, .left), (12, .right), (13, .space), (14, .escape)]
  tags := [(0, .int), (1, .float), (2, .str), (3, .bytes)]
  spriteLayout := .rowMajor
  pixelFormat := [.red, .green, .blue, .alpha]

/-- Parameters together with the proof that they meet the laws. -/
structure LawfulParams where
  val : Params := Params.bare
  lawful : val.Lawful := by decide
deriving Inhabited

/-- The parameters of the machine. Opaque: a proof can use the laws and nothing else (log 1). -/
opaque Config.chip : LawfulParams

/-- FB_INIT, the free colour byte of each pixel at construction (R35); the pixel's Color is what the colour
table makes of it (`Params.initColor`). A free value: no body (log 4). -/
opaque Config.fbInitByte : Nat → Byte

/-- NAN_RESULT, a free pattern for each NaN drawn (R126); the draw uses it if it is a NaN pattern
(`nanPattern`). A free value: no body (log 5). -/
opaque Config.nanDraw : Nat → Word

/-- The host's answers to `isOpen` and `isKeyPressed`, under no law (R19, R171): the answer of the `n`th draw.
A free value: no body (log 2). -/
opaque Config.hostAnswer : Nat → Bool

end Sys2Proof
end

