-- ==== Sys2Proof/Machine/State.lean ====
section
/-! DEFINITION. The state of the core as plain data, the reasons a step can stop, and the state after reset
(10_state.md R25 to R50, 60_exceptions.md R156 to R161). -/

namespace Sys2Proof.Machine

/-- What a cell holds: exactly one of five tagged values (R29). Numbers are kept as their 64-bit patterns,
`int` in two's complement and `float` as binary64, NaN payloads and signed zeros included (R30). -/
inductive CellValue where
  | int (i : Word)
  | float (f : Word)
  | str (units : Octet)
  | bytes (slots : Octet)
  | empty
deriving DecidableEq, Repr

/-- The Typed Memory Bank as a list of (address, value) pairs: addresses strictly rising, below 255, and no
entry `empty`, which is what an unlisted address holds (R28, R31; log 8). -/
abbrev Memory := List (Nat × CellValue)

/-- Why a pass ended (R44). -/
inductive EndReason where
  | exhausted
  | closed
deriving DecidableEq, Repr

/-- The dispatcher's control state (R44). -/
inductive Phase where
  | header
  | run
  | ended (r : EndReason)
  | idle
  | halted
  | faulted
deriving DecidableEq, Repr

/-- The header configuration `cfg` (R41): title, repeat, alt-palette, keep-open and debug. -/
structure HeaderConfig where
  title : List Byte
  repeatPass : Bool
  altPalette : Bool
  keepOpen : Bool
  debug : Bool
deriving DecidableEq, Repr

/-- The configuration at reset: "all default false/empty" (R41). -/
def HeaderConfig.default : HeaderConfig :=
  ⟨[], false, false, false, false⟩

/-- The fault kinds, in the order of their codes 1 to 11 (R156). -/
inductive FaultKind where
  | malformedHeader
  | notImplemented
  | unexpectedEndOfProgram
  | unknownOpcode
  | typeMismatch
  | unknownColorCode
  | unknownKeyCode
  | indexOutOfRange
  | divideByZero
  | unknownTypeTag
  | unmodelled
deriving DecidableEq, Repr

/-- The sub-reasons of an `unmodelled` fault, in the order of their codes 11.1 to 11.6 (R157). -/
inductive UnmodelledReason where
  | addressOutOfRange
  | mixedNumeric
  | integerOverflow
  | floatCoordinate
  | negativeCoordinate
  | framebufferRange
deriving DecidableEq, Repr

/-- Where a fault arose (R46). -/
inductive FaultSite where
  | header
  | body
deriving DecidableEq, Repr

/-- The offending value of a fault, in the shape its row of R156 or R157 gives it. -/
inductive FaultValue where
  /-- A directive, opcode, colour, key, tag or address byte. -/
  | byte (b : Byte)
  /-- END: the program ended (R91). -/
  | endOfProgram
  /-- The operand bytes present (R103), or an array index (R144). -/
  | count (n : Nat)
  /-- The value of a cell. -/
  | cell (v : CellValue)
  /-- The values of two operand cells. -/
  | cells (l r : CellValue)
  /-- Two integer operands. -/
  | ints (l r : Int)
  /-- A framebuffer position. -/
  | point (x y : Int)
deriving DecidableEq, Repr

/-- The fault record (R46). `reason` is none but for `unmodelled`; `opcode` is none for a header fault. -/
structure FaultRecord where
  kind : FaultKind
  reason : Option UnmodelledReason
  site : FaultSite
  offset : Nat
  opcode : Option Byte
  value : FaultValue
deriving DecidableEq, Repr

/-- What an unlisted pixel of a frame holds: the FB_INIT draw (R35), or the colour of the last `CLEAR` (R154). -/
inductive FrameBase where
  | initial
  | filled (c : Color)
deriving DecidableEq, Repr

/-- The contents of the Framebuffer (R33): a base, and the pixels that differ from it as (index, Color) pairs
with strictly rising indices (log 9). -/
structure Frame where
  base : FrameBase
  pixels : List (Nat × Color)
deriving DecidableEq, Repr

/-- A call of the host port, with its argument and its answer (R116, R171). -/
inductive HostCall where
  | construct (cfg : HeaderConfig)
  | isOpen (answer : Bool)
  | isKeyPressed (k : Key) (answer : Bool)
  | present (snapshot : Frame)
  | pumpEvents
deriving DecidableEq, Repr

/-- Why the machine stops for good. No instruction raises one: a fault of the spec is a NEXT state in phase
`faulted` that carries its record (R161). -/
inductive Fault where
  /-- Raised by `step` in phase HALTED, which has no step (R45, R102). Safe: the core does nothing there. -/
  | halted
  /-- Raised by `step` in phase FAULTED, which has no step (R45, R163). Safe: the core does nothing there. -/
  | faulted
deriving DecidableEq, Repr

/-- Why the model gives no next state. -/
inductive Refusal where
  /-- Raised by an arm of `exec` whose instruction has no meaning yet; no arm raises it now. Safe: the model stops. -/
  | notModelled (mnemonic : String)
  /-- Raised by the header step for a body of 2^64 bytes or more, which the spec refuses (D18; log 11).
  Safe: the model stops. -/
  | bodyTooLong
deriving DecidableEq, Repr

/-- The state of the core (R25) with the log of host calls, and the model's own last three fields. -/
structure State where
  /-- The dispatcher's control state (R44). -/
  phase : Phase
  /-- The header configuration (R41). -/
  cfg : HeaderConfig
  /-- The program bytes the loader supplied; no step writes them (R47, R67). -/
  prog : List Byte
  /-- `hdr_len`, the bytes of the header with its terminator (R47). -/
  hdrLen : Nat
  /-- The Bytecode Cursor, a body offset (R36). -/
  cursor : Word
  /-- The Typed Memory Bank (R28). -/
  mem : Memory
  /-- The Framebuffer (R33). -/
  fb : Frame
  /-- The fault record (R46). -/
  fault : Option FaultRecord
  /-- The host calls made so far, the newest first (R25, R116; log 14). -/
  log : List HostCall
  /-- The parameters of R11; no step writes them (log 1). -/
  params : Params
  /-- The host's coming answers, in call order; when there is none, the answer is a free value (log 2). -/
  answers : List Bool
  /-- How many free values have been drawn, so that each draw is a fresh one (logs 2, 5). -/
  draws : Nat
deriving DecidableEq, Repr

/-- The core right after construction (R50, R173), with no program loaded yet (log 3). -/
def State.reset : State where
  phase := .header
  cfg := HeaderConfig.default
  prog := []
  hdrLen := 0
  cursor := 0
  mem := []
  fb := ⟨.initial, []⟩
  fault := none
  log := []
  params := Config.chip.val
  answers := []
  draws := 0

end Sys2Proof.Machine
end

