-- ==== Sys2Proof/Machine/Ops.lean ====
section
/-! DEFINITION. The named operations over the state: cells, pixels, the cursor, the host port, and taking a
fault. There is no return from a fault (60_exceptions.md R163). -/

namespace Sys2Proof.Machine

/-! ### Cells (20_memory.md) -/

/-- The canonical form of the bank: addresses strictly rising and below 255, no entry `empty` (log 8). -/
abbrev Memory.wf (m : Memory) : Prop :=
  sparseWf (fun _ => CellValue.empty) cellCount m

/-- `mem[a]` (R17). -/
def State.cell (s : State) (a : Byte) : CellValue :=
  sparseRead (fun _ => .empty) s.mem a.toNat

/-- `mem[a] <- v`: the whole cell, tag and payload (R57). -/
def State.setCell (s : State) (a : Byte) (v : CellValue) : State :=
  { s with mem := sparseWrite (fun _ => .empty) s.mem a.toNat v }

/-- Slot `k` of eight (R59). -/
def slotOf (o : Octet) : Nat → Byte
  | 0 => o.b0
  | 1 => o.b1
  | 2 => o.b2
  | 3 => o.b3
  | 4 => o.b4
  | 5 => o.b5
  | 6 => o.b6
  | _ => o.b7

/-- The eight slots with slot `k` replaced (R144); `k` is 0 to 7. -/
def setSlot (o : Octet) (k : Nat) (b : Byte) : Octet :=
  match k with
  | 0 => { o with b0 := b }
  | 1 => { o with b1 := b }
  | 2 => { o with b2 := b }
  | 3 => { o with b3 := b }
  | 4 => { o with b4 := b }
  | 5 => { o with b5 := b }
  | 6 => { o with b6 := b }
  | 7 => { o with b7 := b }
  | _ => o

/-! ### Pixels (10_state.md R33) -/

/-- COLOR_TABLE as a partial map (R80): the Color of a byte. -/
def paramColor (P : Params) (b : Byte) : Option Color :=
  (P.colors.find? fun row => row.code == b).map ColorRow.color

/-- The FB_INIT draw of pixel `i`: any Color of the table (R35; log 4). -/
def initColor (P : Params) (i : Nat) : Color :=
  (paramColor P (Config.fbInitByte i)).getD .black

/-- What an unlisted pixel of a frame holds. -/
def baseColor (P : Params) (b : FrameBase) (i : Nat) : Color :=
  match b with
  | .initial => initColor P i
  | .filled c => c

/-- The number of pixels, `FB_WIDTH * FB_HEIGHT` (R33). -/
def pixelCount (P : Params) : Nat :=
  fbWidth * P.fbHeight

/-- The index of pixel `(x, y)` (R33). -/
def pixelIndex (x y : Nat) : Nat :=
  x + y * fbWidth

/-- Pixel `i` of a frame. -/
def framePixel (P : Params) (f : Frame) (i : Nat) : Color :=
  sparseRead (baseColor P f.base) f.pixels i

/-- The canonical form of a frame over its base: indices strictly rising and inside the framebuffer, no entry
equal to what the base gives (log 9). -/
abbrev frameWf (P : Params) (f : Frame) : Prop :=
  sparseWf (baseColor P f.base) (pixelCount P) f.pixels

/-- `fb[i]` (R17). -/
def State.pixel (s : State) (i : Nat) : Color :=
  framePixel s.params s.fb i

/-- `fb[i] <- c` (R17). -/
def State.setPixel (s : State) (i : Nat) (c : Color) : State :=
  { s with fb := { s.fb with pixels := sparseWrite (baseColor s.params s.fb.base) s.fb.pixels i c } }

/-- Write pixels in order. -/
def State.setPixels (s : State) : List (Nat × Color) → State
  | [] => s
  | (i, c) :: rest => (s.setPixel i c).setPixels rest

/-- Every pixel becomes `c` (R154). -/
def State.fill (s : State) (c : Color) : State :=
  { s with fb := ⟨.filled c, []⟩ }

/-! ### The program and the cursor -/

/-- The loader supplies the program before the first step (R175; log 3). -/
def State.load (s : State) (prog : List Byte) : State :=
  { s with prog := prog }

/-- The body: the program after its header (R47). -/
def State.body (s : State) : List Byte :=
  s.prog.drop s.hdrLen

/-- BODY_LEN (R47). -/
def State.bodyLen (s : State) : Nat :=
  s.prog.length - s.hdrLen

/-- The body bytes from the cursor on; none when the cursor is at or past BODY_LEN (R18, R106). -/
def State.fetchBytes (s : State) : List Byte :=
  s.body.drop s.cursor.toNat

/-- `cursor <- t`, with no bounds check (R38, R145). -/
def State.jump (s : State) (t : Word) : State :=
  { s with cursor := t }

/-- `cursor <- o + L` (R37, R103). -/
def State.advance (s : State) (len : Nat) : State :=
  { s with cursor := BitVec.ofNat 64 (s.cursor.toNat + len) }

/-- The dispatcher's control state changes. -/
def State.enter (s : State) (p : Phase) : State :=
  { s with phase := p }

/-! ### The host port (60_exceptions.md R170, R171) and draws -/

/-- Record a host call (R116). -/
def State.call (s : State) (h : HostCall) : State :=
  { s with log := h :: s.log }

/-- The answer the host gives to the next call that returns one: a draw (R19; log 2). -/
def State.nextAnswer (s : State) : Bool :=
  match s.answers with
  | b :: _ => b
  | [] => Config.hostAnswer s.draws

/-- The state once that answer has been given. -/
def State.answered (s : State) : State :=
  match s.answers with
  | _ :: rest => { s with answers := rest }
  | [] => { s with draws := s.draws + 1 }

/-- `Host.isOpen()` has answered `s.nextAnswer` (R103, R111). -/
def State.pollOpen (s : State) : State :=
  s.answered.call (.isOpen s.nextAnswer)

/-- `Host.isKeyPressed(k)` has answered `s.nextAnswer` (R152). -/
def State.pollKey (s : State) (k : Key) : State :=
  s.answered.call (.isKeyPressed k s.nextAnswer)

/-! ### Taking a fault (60_exceptions.md R161) -/

/-- What `raise F(info)` names: the kind, the sub-reason of `unmodelled`, the offending value. -/
structure Raised where
  kind : FaultKind
  reason : Option UnmodelledReason
  value : FaultValue
deriving DecidableEq, Repr

/-- The outcome of a check: a value, or the fault it raises. -/
abbrev Checked (α : Type) := Except Raised α

/-- A fault of one of the document's kinds. -/
def raiseKind (k : FaultKind) (v : FaultValue) : Raised :=
  ⟨k, none, v⟩

/-- `Unmodelled(reason)` (R157). -/
def raiseUnmodelled (r : UnmodelledReason) (v : FaultValue) : Raised :=
  ⟨.unmodelled, some r, v⟩

/-- Taking a fault in the state before the step's writes: only the phase and the fault record change (R161). -/
def State.takeFault (s : State) (r : Raised) (site : FaultSite) (offset : Nat) (opcode : Option Byte) : State :=
  { s with phase := .faulted, fault := some ⟨r.kind, r.reason, site, offset, opcode, r.value⟩ }

/-- A body fault: at the cursor, which still is the offset of the opcode byte (R107, R158). -/
def State.takeBodyFault (s : State) (op : Byte) (r : Raised) : State :=
  s.takeFault r .body s.cursor.toNat (some op)

/-- A header fault: at a program offset (R158). -/
def State.takeHeaderFault (s : State) (offset : Nat) (r : Raised) : State :=
  s.takeFault r .header offset none

/-- Execute instruction `i`: its effect runs after the cursor has passed the whole instruction (R37, R103), and
an effect that raises makes none of its writes, the cursor advance included (R108, R161). -/
def State.perform (s : State) (i : Instr) (effect : State → Checked State) :
    Host.Outcome State Fault Refusal :=
  .next
    (match effect (s.advance i.length) with
    | .ok t => t
    | .error r => s.takeBodyFault i.opcode r)

end Sys2Proof.Machine
end

