-- ==== Sys2Proof/Machine/Operands.lean ====
section
/-! DEFINITION. The operand forms: address checks, the typed accessors, the value codecs, coordinates
(20_memory.md R54 to R56, 30_encoding.md R74 to R84, 42_draw.md R120). -/

namespace Sys2Proof.Machine

/-! ### Addresses and typed reads -/

/-- `CheckAddr(a)` (R54). -/
def checkAddr (a : Byte) : Checked Unit :=
  if a = 0xFF#8 then .error (raiseUnmodelled .addressOutOfRange (.byte a)) else .ok ()

/-- `CheckAddr` on each address in turn. -/
def checkAddrs : List Byte → Checked Unit
  | [] => .ok ()
  | a :: rest =>
    match checkAddr a with
    | .ok _ => checkAddrs rest
    | .error r => .error r

/-- The fault of a failed tag check, with the cell's value (R55). -/
def typeMismatch (v : CellValue) : Raised :=
  raiseKind .typeMismatch (.cell v)

/-- `ReadInt(a)` (R55). -/
def readInt (s : State) (a : Byte) : Checked Word :=
  match s.cell a with
  | .int i => .ok i
  | v => .error (typeMismatch v)

/-- `ReadNumeric(a)` (R55). -/
def readNumeric (s : State) (a : Byte) : Checked CellValue :=
  match s.cell a with
  | .int i => .ok (.int i)
  | .float f => .ok (.float f)
  | v => .error (typeMismatch v)

/-- `ReadArray(a)` (R55). -/
def readArray (s : State) (a : Byte) : Checked CellValue :=
  match s.cell a with
  | .str u => .ok (.str u)
  | .bytes b => .ok (.bytes b)
  | v => .error (typeMismatch v)

/-- `ReadBytes(a)` (R55). -/
def readBytes (s : State) (a : Byte) : Checked Octet :=
  match s.cell a with
  | .bytes b => .ok b
  | v => .error (typeMismatch v)

/-- `ReadBytes` on each address in turn. -/
def readRows (s : State) : List Byte → Checked (List Octet)
  | [] => .ok []
  | a :: rest => do
    let row ← readBytes s a
    let rows ← readRows s rest
    .ok (row :: rows)

/-- `IsEmpty(a)` (R55). -/
def isEmptyCell (s : State) (a : Byte) : Bool :=
  decide (s.cell a = .empty)

/-- `IsInt(a, k)`: tag and payload together, never a fault (R55, R56). -/
def isIntCell (s : State) (a : Byte) (k : Word) : Bool :=
  decide (s.cell a = .int k)

/-! ### Value codecs -/

/-- `ColorDecode(b)` (R80). -/
def colorDecode (P : Params) (b : Byte) : Checked Color :=
  match paramColor P b with
  | some c => .ok c
  | none => .error (raiseKind .unknownColorCode (.byte b))

/-- KEY_TABLE as a partial map (R82). -/
def paramKey (P : Params) (b : Byte) : Option Key :=
  (P.keys.find? fun row => row.1 == b).map Prod.snd

/-- `KeyDecode(b)` (R82). -/
def keyDecode (P : Params) (b : Byte) : Checked Key :=
  match paramKey P b with
  | some k => .ok k
  | none => .error (raiseKind .unknownKeyCode (.byte b))

/-- TYPE_TAG_TABLE as a partial map (R83). -/
def paramTag (P : Params) (b : Byte) : Option Tag :=
  (P.tags.find? fun row => row.1 == b).map Prod.snd

/-- `TagDecode(b)` (R83). -/
def tagDecode (P : Params) (b : Byte) : Checked Tag :=
  match paramTag P b with
  | some t => .ok t
  | none => .error (raiseKind .unknownTypeTag (.byte b))

/-- `PayloadDecode(t, d)` (R84). -/
def payloadDecode (t : Tag) (d : Octet) : CellValue :=
  match t with
  | .int => .int (le64 d)
  | .float => .float (le64 d)
  | .str => .str d
  | .bytes => .bytes d

/-- COLOR_RGB: the colour bytes of a Color of the table (R155). -/
def paramRgb (P : Params) (c : Color) : Option Rgb :=
  (P.colors.find? fun row => row.color == c).map ColorRow.rgb

/-- One byte of an encoded pixel; alpha is always fully opaque (R155). -/
def channelByte (rgb : Rgb) : Channel → Byte
  | .red => rgb.red
  | .green => rgb.green
  | .blue => rgb.blue
  | .alpha => 0xFF#8

/-- `encode(Color)`: the four bytes of a pixel at presentation, in the order of PIXEL_FORMAT (R155). No core
rule uses it; the host does, when it shows a snapshot. -/
def colorEncode (P : Params) (c : Color) : Option (List Byte) :=
  (paramRgb P c).map fun rgb => P.pixelFormat.map (channelByte rgb)

/-! ### Coordinates and arithmetic operands -/

/-- `Coord(v, n)`: the wrap-around of a coordinate read from a cell (R120). -/
def coord (v : CellValue) (n : Nat) : Checked Nat :=
  match v with
  | .int i =>
    if i.toInt < 0 then .error (raiseUnmodelled .negativeCoordinate (.cell v))
    else .ok (i.toInt.toNat % n)
  | .float _ => .error (raiseUnmodelled .floatCoordinate (.cell v))
  | .str _ | .bytes _ | .empty => .error (typeMismatch v)

/-- Two numeric operands after their address checks, in operand order (R124, R138). -/
def numericOperands (s : State) (lhs rhs dest : Byte) : Checked (CellValue × CellValue) := do
  checkAddrs [lhs, rhs, dest]
  let vl ← readNumeric s lhs
  let vr ← readNumeric s rhs
  .ok (vl, vr)

/-- The fault of operands of the wrong numeric kinds (R124, R137). -/
def mixedNumeric (vl vr : CellValue) : Raised :=
  raiseUnmodelled .mixedNumeric (.cells vl vr)

/-- `ArithOperands(INT)` (R124). -/
def intOperands (s : State) (lhs rhs dest : Byte) : Checked (Int × Int) := do
  match ← numericOperands s lhs rhs dest with
  | (.int l, .int r) => .ok (l.toInt, r.toInt)
  | (vl, vr) => .error (mixedNumeric vl vr)

/-- `ArithOperands(FLOAT)` (R124). -/
def floatOperands (s : State) (lhs rhs dest : Byte) : Checked (Word × Word) := do
  match ← numericOperands s lhs rhs dest with
  | (.float l, .float r) => .ok (l, r)
  | (vl, vr) => .error (mixedNumeric vl vr)

end Sys2Proof.Machine
end

