-- ==== Sys2Proof/Machine/Cells.lean ====
section
/-! DEFINITION. The cell-write instructions VAR_SET, LET and ARRAY_WRITE (45_cells.md R141 to R144). -/

namespace Sys2Proof.Machine

/-- The literal of `VAR_SET` and `LET`: the tag is decoded, the address checked, then the payload (R141, R142). -/
def literal (typeTag : Byte) (payload : Octet) (dest : Byte) (s : State) : Checked CellValue := do
  let t ← tagDecode s.params typeTag
  checkAddr dest
  .ok (payloadDecode t payload)

/-- `VAR_SET`: always overwrites (R142). -/
def execVarSet (typeTag : Byte) (payload : Octet) (dest : Byte) (s : State) :
    Host.Outcome State Fault Refusal :=
  s.perform (.varSet typeTag payload dest) fun s => do
    let v ← literal typeTag payload dest s
    .ok (s.setCell dest v)

/-- `LET`: writes only an Empty cell (R143). -/
def execLet (typeTag : Byte) (payload : Octet) (dest : Byte) (s : State) :
    Host.Outcome State Fault Refusal :=
  s.perform (.letCell typeTag payload dest) fun s => do
    let v ← literal typeTag payload dest s
    if isEmptyCell s dest then .ok (s.setCell dest v) else .ok s

/-- An array value with slot `i` replaced; its tag and its other slots stay (R57, R144). -/
def writeSlot (v : CellValue) (i : Nat) (b : Byte) : CellValue :=
  match v with
  | .str u => .str (setSlot u i b)
  | .bytes w => .bytes (setSlot w i b)
  | .int n => .int n
  | .float f => .float f
  | .empty => .empty

/-- `ARRAY_WRITE`: the index is checked before the cell's tag (R144). -/
def execArrayWrite (arrAddr index value : Byte) (s : State) : Host.Outcome State Fault Refusal :=
  s.perform (.arrayWrite arrAddr index value) fun s => do
    checkAddr arrAddr
    if 7 < index.toNat then .error (raiseKind .indexOutOfRange (.count index.toNat))
    else
      let w ← readArray s arrAddr
      .ok (s.setCell arrAddr (writeSlot w index.toNat value))

end Sys2Proof.Machine
end

