-- ==== Sys2Proof/Machine/Control.lean ====
section
/-! DEFINITION. NOP (41_dispatcher.md R113) and the jumps TJMP, FJMP, JMP and VJMP (46_control.md R145 to R150). -/

namespace Sys2Proof.Machine

/-- `NOP` (R113). -/
def execNop (s : State) : Host.Outcome State Fault Refusal :=
  s.perform .nop fun s => .ok s

/-- `TJMP`: jumps when the cell is exactly Int(1) (R147). -/
def execTjmp (condAddr : Byte) (offset : Word) (s : State) : Host.Outcome State Fault Refusal :=
  s.perform (.tjmp condAddr offset) fun s => do
    checkAddr condAddr
    if isIntCell s condAddr 1 then .ok (s.jump offset) else .ok s

/-- `FJMP`: jumps when the cell is not exactly Int(1) (R148). -/
def execFjmp (condAddr : Byte) (offset : Word) (s : State) : Host.Outcome State Fault Refusal :=
  s.perform (.fjmp condAddr offset) fun s => do
    checkAddr condAddr
    if isIntCell s condAddr 1 then .ok s else .ok (s.jump offset)

/-- `JMP` (R149). -/
def execJmp (offset : Word) (s : State) : Host.Outcome State Fault Refusal :=
  s.perform (.jmp offset) fun s => .ok (s.jump offset)

/-- `VJMP`: the Int of a cell, its 64 bits read as unsigned (R150). -/
def execVjmp (memAddr : Byte) (s : State) : Host.Outcome State Fault Refusal :=
  s.perform (.vjmp memAddr) fun s => do
    checkAddr memAddr
    let i ← readInt s memAddr
    .ok (s.jump i)

end Sys2Proof.Machine
end

