-- ==== Sys2Proof/Machine/Float.lean ====
section
/-! DEFINITION. IEEE 754 binary64 arithmetic with round to nearest, ties to even, on bit patterns
(43_arithmetic.md R126; log 10). Operands are turned into exact integers, the exact result is rounded once. -/

namespace Sys2Proof.Machine

/-! ### Taking a pattern apart: bit 63 the sign, bits 62:52 the biased exponent, bits 51:0 the fraction -/

/-- The sign bit. -/
def f64Neg (b : Word) : Bool :=
  decide (2 ^ 63 ≤ b.toNat)

/-- The pattern without its sign bit. -/
def f64Magnitude (b : Word) : Nat :=
  b.toNat % 2 ^ 63

/-- The biased exponent field. -/
def f64Exp (b : Word) : Nat :=
  f64Magnitude b / 2 ^ 52

/-- The fraction field. -/
def f64Frac (b : Word) : Nat :=
  b.toNat % 2 ^ 52

/-- The magnitude pattern of an infinity. -/
def f64InfMagnitude : Nat := 2047 * 2 ^ 52

/-- Every NaN pattern, of any sign and payload. -/
def f64IsNaN (b : Word) : Bool :=
  decide (f64InfMagnitude < f64Magnitude b)

/-- Either infinity. -/
def f64IsInf (b : Word) : Bool :=
  decide (f64Magnitude b = f64InfMagnitude)

/-- Either zero. -/
def f64IsZero (b : Word) : Bool :=
  decide (f64Magnitude b = 0)

/-- The integer significand of a finite pattern, the hidden bit included when the number is normal. -/
def f64Significand (b : Word) : Nat :=
  if f64Exp b = 0 then f64Frac b else 2 ^ 52 + f64Frac b

/-- The power of two the significand of a finite pattern counts. -/
def f64Scale (b : Word) : Int :=
  if f64Exp b = 0 then -1074 else (f64Exp b : Int) - 1075

/-! ### Putting a pattern together -/

/-- The pattern of a sign and a magnitude pattern. -/
def f64Pack (neg : Bool) (magnitude : Nat) : Word :=
  BitVec.ofNat 64 (magnitude + if neg then 2 ^ 63 else 0)

/-- Infinity of a sign. -/
def f64Inf (neg : Bool) : Word :=
  f64Pack neg f64InfMagnitude

/-- `floor (log2 (num / den))`, for `num` and `den` not 0. -/
def ratioLog2 (num den : Nat) : Int :=
  let lead : Int := (Nat.log2 num : Int) - (Nat.log2 den : Int)
  if num * 2 ^ (-lead).toNat < den * 2 ^ lead.toNat then lead - 1 else lead

/-- `n / d` rounded to the nearest integer, a tie to the even one. -/
def divNearestEven (n d : Nat) : Nat :=
  let m := n / d
  let r := n % d
  if d < 2 * r ∨ (2 * r = d ∧ m % 2 = 1) then m + 1 else m

/-- The power of two of the last place of a result of about `num / den * 2 ^ e`: 52 bits below its leading
bit, but never below the last place of the subnormals. -/
def f64LastPlace (num den : Nat) (e : Int) : Int :=
  max (ratioLog2 num den + e - 52) (-1074)

/-- The pattern of the magnitude `num / den * 2 ^ e`, rounded to nearest, ties to even; an infinity when it
rounds past the greatest finite number. A carry out of the significand runs into the exponent field, which is the
binary64 successor. -/
def f64Round (neg : Bool) (num den : Nat) (e : Int) : Word :=
  let q := f64LastPlace num den e
  let m := divNearestEven (num * 2 ^ (e - q).toNat) (den * 2 ^ (q - e).toNat)
  let magnitude := (q + 1074).toNat * 2 ^ 52 + m
  if f64InfMagnitude ≤ magnitude then f64Inf neg else f64Pack neg magnitude

/-! ### The operations; `none` is a NaN result, whose pattern is a draw -/

/-- The exact value of a finite pattern in units of `2 ^ e`, for `e` at most its scale. -/
def f64Exact (b : Word) (e : Int) : Int :=
  let n : Int := (f64Significand b * 2 ^ (f64Scale b - e).toNat : Nat)
  if f64Neg b then -n else n

/-- `fadd64` (R127). -/
def fadd64 (l r : Word) : Option Word :=
  if f64IsNaN l || f64IsNaN r then none
  else if f64IsInf l then
    if f64IsInf r && f64Neg l != f64Neg r then none else some l
  else if f64IsInf r then some r
  else
    let e := min (f64Scale l) (f64Scale r)
    let v := f64Exact l e + f64Exact r e
    if v = 0 then some (f64Pack (f64Neg l && f64Neg r) 0)
    else some (f64Round (decide (v < 0)) v.natAbs 1 e)

/-- The pattern with its sign bit turned over. -/
def f64Negate (b : Word) : Word :=
  f64Pack (!f64Neg b) (f64Magnitude b)

/-- `fsub64`: the sum with the negated right operand (R128). -/
def fsub64 (l r : Word) : Option Word :=
  fadd64 l (f64Negate r)

/-- `fmul64` (R129). -/
def fmul64 (l r : Word) : Option Word :=
  let neg := f64Neg l != f64Neg r
  if f64IsNaN l || f64IsNaN r then none
  else if f64IsInf l || f64IsInf r then
    if f64IsZero l || f64IsZero r then none else some (f64Inf neg)
  else if f64IsZero l || f64IsZero r then some (f64Pack neg 0)
  else some (f64Round neg (f64Significand l * f64Significand r) 1 (f64Scale l + f64Scale r))

/-- `fdiv64` (R130). -/
def fdiv64 (l r : Word) : Option Word :=
  let neg := f64Neg l != f64Neg r
  if f64IsNaN l || f64IsNaN r then none
  else if f64IsInf l then
    if f64IsInf r then none else some (f64Inf neg)
  else if f64IsInf r then some (f64Pack neg 0)
  else if f64IsZero r then
    if f64IsZero l then none else some (f64Inf neg)
  else if f64IsZero l then some (f64Pack neg 0)
  else some (f64Round neg (f64Significand l) (f64Significand r) (f64Scale l - f64Scale r))

/-! ### Comparison -/

/-- A number that orders the patterns that are not NaN as IEEE 754 does; both zeros are 0. -/
def f64Order (b : Word) : Int :=
  if f64Neg b then -(f64Magnitude b : Int) else (f64Magnitude b : Int)

/-- `fgt64`: false when either is NaN (R137). -/
def fgt64 (l r : Word) : Bool :=
  !f64IsNaN l && !f64IsNaN r && decide (f64Order r < f64Order l)

/-- `flt64`: false when either is NaN (R137). -/
def flt64 (l r : Word) : Bool :=
  !f64IsNaN l && !f64IsNaN r && decide (f64Order l < f64Order r)

/-! ### The NaN draw -/

/-- A free pattern made a NaN: itself when it is one, else the NaN of greatest payload. So every NaN pattern can
be drawn and nothing else (log 5). -/
def nanPattern (free : Word) : Word :=
  if f64IsNaN free then free else f64Pack true (2 ^ 63 - 1)

/-- The NAN_RESULT draw (R126). -/
def State.nextNaN (s : State) : Word :=
  nanPattern (Config.nanDraw s.draws)

/-- The state once a NaN has been drawn. -/
def State.drewNaN (s : State) : State :=
  { s with draws := s.draws + 1 }

/-- `mem[a] <- Float(r)`, where a NaN result is a draw (R126). -/
def State.setFloat (s : State) (a : Byte) (r : Option Word) : State :=
  match r with
  | some f => s.setCell a (.float f)
  | none => s.drewNaN.setCell a (.float s.nextNaN)

end Sys2Proof.Machine
end

