-- ==== Sys2Proof/Machine/Flags.lean ====
section
/-! DEFINITION. Conditions. The core has no flags (10_state.md R40): a condition is the cell value Int(1) or
Int(0), and an integer result outside i64 is a fault. -/

namespace Sys2Proof.Machine

/-- A boolean as a cell value: Int(1) or Int(0) (R40). -/
def truth (b : Bool) : CellValue :=
  if b then .int 1 else .int 0

/-- The integer law: an exact result as an `i64`, or INTEGER_OVERFLOW with the operands (R131). -/
def narrow (l r v : Int) : Checked Word :=
  if v < -2 ^ 63 ∨ 2 ^ 63 - 1 < v then .error (raiseUnmodelled .integerOverflow (.ints l r))
  else .ok (BitVec.ofInt 64 v)

/-- The comparison law: signed for two Ints, IEEE for two Floats, no meaning for one of each (R137). -/
def compareCells (onInt : Int → Int → Bool) (onFloat : Word → Word → Bool) :
    CellValue × CellValue → Checked Bool
  | (.int l, .int r) => .ok (onInt l.toInt r.toInt)
  | (.float l, .float r) => .ok (onFloat l r)
  | (vl, vr) => .error (mixedNumeric vl vr)

end Sys2Proof.Machine
end

