-- ==== Sys2Proof/Machine/Display.lean ====
section
/-! DEFINITION. The input and display instructions KEY, RENDER and CLEAR (47_io_display.md R152 to R154). -/

namespace Sys2Proof.Machine

/-- `KEY`: a KEY that faults makes no host call (R152). -/
def execKey (keycodeByte dest : Byte) (s : State) : Host.Outcome State Fault Refusal :=
  s.perform (.key keycodeByte dest) fun s => do
    let k ← keyDecode s.params keycodeByte
    checkAddr dest
    .ok ((s.pollKey k).setCell dest (truth s.nextAnswer))

/-- `RENDER`: presents a copy of the framebuffer as it stands (R153). -/
def execRender (s : State) : Host.Outcome State Fault Refusal :=
  s.perform .render fun s => .ok (s.call (.present s.fb))

/-- `CLEAR`: no transparency skip (R154). -/
def execClear (colorByte : Byte) (s : State) : Host.Outcome State Fault Refusal :=
  s.perform (.clear colorByte) fun s => do
    let c ← colorDecode s.params colorByte
    .ok (s.fill c)

end Sys2Proof.Machine
end

