-- ==== Sys2Proof/Machine/Draw.lean ====
section
/-! DEFINITION. The drawing instructions PIXEL_LIT, PIXEL_MEM and SPRITE_BLIT (42_draw.md R117 to R123). -/

namespace Sys2Proof.Machine

/-- The fault of a written pixel outside the framebuffer, with its position (R118). -/
def framebufferRange (x y : Int) : Raised :=
  raiseUnmodelled .framebufferRange (.point x y)

/-- `PIXEL_LIT` (R119). -/
def execPixelLit (x y colorByte : Byte) (s : State) : Host.Outcome State Fault Refusal :=
  s.perform (.pixelLit x y colorByte) fun s => do
    let c ← colorDecode s.params colorByte
    if c = .transparent then .ok s
    else if fbWidth ≤ x.toNat ∨ s.params.fbHeight ≤ y.toNat then
      .error (framebufferRange x.toNat y.toNat)
    else .ok (s.setPixel (pixelIndex x.toNat y.toNat) c)

/-- `PIXEL_MEM` (R121). -/
def execPixelMem (xAddr yAddr colorByte : Byte) (s : State) : Host.Outcome State Fault Refusal :=
  s.perform (.pixelMem xAddr yAddr colorByte) fun s => do
    checkAddrs [xAddr, yAddr]
    let c ← colorDecode s.params colorByte
    let vx ← readNumeric s xAddr
    let vy ← readNumeric s yAddr
    let x ← coord vx fbWidth
    let y ← coord vy s.params.fbHeight
    if c = .transparent then .ok s else .ok (s.setPixel (pixelIndex x y) c)

/-- One byte of a sprite: its source cell `cell`, its slot in it, and the colour byte there (R122). -/
structure SpriteByte where
  cell : Nat
  slot : Nat
  code : Byte
deriving DecidableEq, Repr

/-- The 64 bytes of a sprite in scan order: cell by cell, slot by slot (R123). -/
def spriteBytes (rows : List Octet) : List SpriteByte :=
  rows.zipIdx.flatMap fun (row, k) => row.toList.zipIdx.map fun (b, j) => ⟨k, j, b⟩

/-- Where a sprite byte's pixel goes, on mathematical integers (R122, R123). -/
def spritePosition (layout : SpriteLayout) (ox oy : Int) (b : SpriteByte) : Int × Int :=
  match layout with
  | .rowMajor => (ox + b.slot, oy + b.cell)
  | .columnMajor => (ox + b.cell, oy + b.slot)

/-- A position lies in the framebuffer (R118). -/
def onScreen (P : Params) (p : Int × Int) : Bool :=
  decide (0 ≤ p.1 ∧ p.1 < fbWidth ∧ 0 ≤ p.2 ∧ p.2 < P.fbHeight)

/-- The scan of SPRITE_BLIT: the pixels to write, or the fault of the first byte that raises one (R123). -/
def spriteScan (P : Params) (ox oy : Int) : List SpriteByte → Checked (List (Nat × Color))
  | [] => .ok []
  | b :: rest => do
    let c ← colorDecode P b.code
    if c = .transparent then spriteScan P ox oy rest
    else
      let p := spritePosition P.spriteLayout ox oy b
      if onScreen P p then
        let more ← spriteScan P ox oy rest
        .ok ((pixelIndex p.1.toNat p.2.toNat, c) :: more)
      else .error (framebufferRange p.1 p.2)

/-- `SPRITE_BLIT` (R123). -/
def execSpriteBlit (srcs : Octet) (xAddr yAddr : Byte) (s : State) : Host.Outcome State Fault Refusal :=
  s.perform (.spriteBlit srcs xAddr yAddr) fun s => do
    checkAddrs (srcs.toList ++ [xAddr, yAddr])
    let rows ← readRows s srcs.toList
    let ox ← readInt s xAddr
    let oy ← readInt s yAddr
    let pending ← spriteScan s.params ox.toInt oy.toInt (spriteBytes rows)
    .ok (s.setPixels pending)

end Sys2Proof.Machine
end

