-- ==== Sys2Proof/Machine/FloatArith.lean ====
section
/-! DEFINITION. The float arithmetic instructions FADD, FSUB, FMUL and FDIV (43_arithmetic.md R124 to R130). -/

namespace Sys2Proof.Machine

/-- Both operands are read before `dest` is written (R125). -/
def floatArith (op : Word → Word → Option Word) (lhs rhs dest : Byte) (s : State) : Checked State := do
  let (l, r) ← floatOperands s lhs rhs dest
  .ok (s.setFloat dest (op l r))

/-- `FDIV`: a zero divisor is no fault (R130). -/
def execFdiv (lhs rhs dest : Byte) (s : State) : Host.Outcome State Fault Refusal :=
  s.perform (.fdiv lhs rhs dest) (floatArith fdiv64 lhs rhs dest)

/-- `FSUB` (R128). -/
def execFsub (lhs rhs dest : Byte) (s : State) : Host.Outcome State Fault Refusal :=
  s.perform (.fsub lhs rhs dest) (floatArith fsub64 lhs rhs dest)

/-- `FADD` (R127). -/
def execFadd (lhs rhs dest : Byte) (s : State) : Host.Outcome State Fault Refusal :=
  s.perform (.fadd lhs rhs dest) (floatArith fadd64 lhs rhs dest)

/-- `FMUL` (R129). -/
def execFmul (lhs rhs dest : Byte) (s : State) : Host.Outcome State Fault Refusal :=
  s.perform (.fmul lhs rhs dest) (floatArith fmul64 lhs rhs dest)

end Sys2Proof.Machine
end

