-- ==== Sys2Proof/Machine/IntArith.lean ====
section
/-! DEFINITION. The integer arithmetic instructions ADD, SUB, MUL and DIV (43_arithmetic.md R124, R125, R131 to
R135). -/

namespace Sys2Proof.Machine

/-- Read both operands, compute exactly, narrow to `i64`, write `dest` (R125, R131). -/
def intArith (op : Int → Int → Int) (lhs rhs dest : Byte) (s : State) : Checked State := do
  let (l, r) ← intOperands s lhs rhs dest
  let v ← narrow l r (op l r)
  .ok (s.setCell dest (.int v))

/-- `DIV`: a zero divisor faults, the quotient is rounded toward zero (R135). -/
def execDiv (lhs rhs dest : Byte) (s : State) : Host.Outcome State Fault Refusal :=
  s.perform (.div lhs rhs dest) fun s => do
    let (l, r) ← intOperands s lhs rhs dest
    if r = 0 then .error (raiseKind .divideByZero (.ints l r))
    else
      let q ← narrow l r (Int.tdiv l r)
      .ok (s.setCell dest (.int q))

/-- `SUB` (R133). -/
def execSub (lhs rhs dest : Byte) (s : State) : Host.Outcome State Fault Refusal :=
  s.perform (.sub lhs rhs dest) (intArith (· - ·) lhs rhs dest)

/-- `ADD` (R132). -/
def execAdd (lhs rhs dest : Byte) (s : State) : Host.Outcome State Fault Refusal :=
  s.perform (.add lhs rhs dest) (intArith (· + ·) lhs rhs dest)

/-- `MUL` (R134). -/
def execMul (lhs rhs dest : Byte) (s : State) : Host.Outcome State Fault Refusal :=
  s.perform (.mul lhs rhs dest) (intArith (· * ·) lhs rhs dest)

end Sys2Proof.Machine
end

