-- ==== Sys2Proof/Machine/Logic.lean ====
section
/-! DEFINITION. The logic and comparison instructions NOT, GT and LT (44_logic_compare.md R136 to R139). -/

namespace Sys2Proof.Machine

/-- `NOT`: exactly Int(0) is false, every other value is true; no tag check (R136). -/
def execNot (src dest : Byte) (s : State) : Host.Outcome State Fault Refusal :=
  s.perform (.notCell src dest) fun s => do
    checkAddrs [src, dest]
    .ok (s.setCell dest (truth (isIntCell s src 0)))

/-- A comparison of two numeric cells into a third (R137). -/
def compareInto (onInt : Int → Int → Bool) (onFloat : Word → Word → Bool) (lhs rhs dest : Byte) (s : State) :
    Checked State := do
  let t ← compareCells onInt onFloat (← numericOperands s lhs rhs dest)
  .ok (s.setCell dest (truth t))

/-- `GT` (R138). -/
def execGt (lhs rhs dest : Byte) (s : State) : Host.Outcome State Fault Refusal :=
  s.perform (.gt lhs rhs dest) (compareInto (fun l r => decide (r < l)) fgt64 lhs rhs dest)

/-- `LT` (R139). -/
def execLt (lhs rhs dest : Byte) (s : State) : Host.Outcome State Fault Refusal :=
  s.perform (.lt lhs rhs dest) (compareInto (fun l r => decide (l < r)) flt64 lhs rhs dest)

end Sys2Proof.Machine
end

