-- ==== Sys2Proof/Machine/Dispatch.lean ====
section
/-! DEFINITION. The dispatch of an instruction to its meaning (41_dispatcher.md R107). -/

namespace Sys2Proof.Machine

/-- `Exec(op, b, o)`, in a state whose cursor still is `o`, the offset of the opcode byte (R107). -/
def exec (i : Instr) (s : State) : Host.Outcome State Fault Refusal :=
  match i with
  | .nop => Sys2Proof.Machine.execNop s
  | .pixelLit x y colorByte => Sys2Proof.Machine.execPixelLit x y colorByte s
  | .pixelMem xAddr yAddr colorByte => Sys2Proof.Machine.execPixelMem xAddr yAddr colorByte s
  | .spriteBlit srcs xAddr yAddr => Sys2Proof.Machine.execSpriteBlit srcs xAddr yAddr s
  | .fdiv lhs rhs dest => Sys2Proof.Machine.execFdiv lhs rhs dest s
  | .fsub lhs rhs dest => Sys2Proof.Machine.execFsub lhs rhs dest s
  | .fadd lhs rhs dest => Sys2Proof.Machine.execFadd lhs rhs dest s
  | .fmul lhs rhs dest => Sys2Proof.Machine.execFmul lhs rhs dest s
  | .div lhs rhs dest => Sys2Proof.Machine.execDiv lhs rhs dest s
  | .sub lhs rhs dest => Sys2Proof.Machine.execSub lhs rhs dest s
  | .add lhs rhs dest => Sys2Proof.Machine.execAdd lhs rhs dest s
  | .mul lhs rhs dest => Sys2Proof.Machine.execMul lhs rhs dest s
  | .notCell src dest => Sys2Proof.Machine.execNot src dest s
  | .gt lhs rhs dest => Sys2Proof.Machine.execGt lhs rhs dest s
  | .lt lhs rhs dest => Sys2Proof.Machine.execLt lhs rhs dest s
  | .varSet typeTag payload dest => Sys2Proof.Machine.execVarSet typeTag payload dest s
  | .letCell typeTag payload dest => Sys2Proof.Machine.execLet typeTag payload dest s
  | .arrayWrite arrAddr index value => Sys2Proof.Machine.execArrayWrite arrAddr index value s
  | .tjmp condAddr offset => Sys2Proof.Machine.execTjmp condAddr offset s
  | .fjmp condAddr offset => Sys2Proof.Machine.execFjmp condAddr offset s
  | .jmp offset => Sys2Proof.Machine.execJmp offset s
  | .vjmp memAddr => Sys2Proof.Machine.execVjmp memAddr s
  | .key keycodeByte dest => Sys2Proof.Machine.execKey keycodeByte dest s
  | .render => Sys2Proof.Machine.execRender s
  | .clear colorByte => Sys2Proof.Machine.execClear colorByte s

end Sys2Proof.Machine
end

