-- ==== Sys2Proof/Machine/Cycle.lean ====
section
/-! DEFINITION. The fetch-execute step, the post-loop step and the idle step (41_dispatcher.md R103 to R112). -/

namespace Sys2Proof.Machine

/-- The instruction at the cursor (R103). -/
def State.fetch (s : State) : Decoded :=
  decode s.fetchBytes

/-- `Host.pumpEvents()` after an instruction that completes, and not after one that faults (R109). -/
def State.pump (s : State) : State :=
  if s.phase = .faulted then s else s.call .pumpEvents

/-- What the dispatcher does once an instruction has run (R103, R109). -/
def afterExec : Host.Outcome State Fault Refusal → Host.Outcome State Fault Refusal
  | .next t => .next t.pump
  | .fault r => .fault r
  | .refused r => .refused r

/-- The fetch-execute step of phase RUN: poll the host, check for the end of the body, fetch, execute (R103). -/
def stepRun (s : State) : Host.Outcome State Fault Refusal :=
  if s.nextAnswer then
    match s.pollOpen.fetch with
    | .ok (i, _) => afterExec (exec i s.pollOpen)
    | .error .noBytes => .next (s.pollOpen.enter (.ended .exhausted))
    | .error (.unknownOpcode op) =>
      .next (s.pollOpen.takeBodyFault op (raiseKind .unknownOpcode (.byte op)))
    | .error (.truncated op present) =>
      .next (s.pollOpen.takeBodyFault op (raiseKind .unexpectedEndOfProgram (.count present)))
  else .next (s.pollOpen.enter (.ended .closed))

/-- The post-loop step of phase END, for either reason: restart, idle or halt (R110). -/
def stepEnd (s : State) : Host.Outcome State Fault Refusal :=
  if s.cfg.repeatPass then .next ((s.jump 0).enter .run)
  else if s.cfg.keepOpen then .next (s.enter .idle)
  else .next (s.enter .halted)

/-- The idle step of phase IDLE: one poll of the host (R111). -/
def stepIdle (s : State) : Host.Outcome State Fault Refusal :=
  if s.nextAnswer then .next s.pollOpen else .next (s.pollOpen.enter .halted)

end Sys2Proof.Machine
end

