-- ==== Sys2Proof/Machine/Header.lean ====
section
/-! DEFINITION. The header parser and the header step (40_header.md R90 to R101). -/

namespace Sys2Proof.Machine

/-- What the next header byte is: a directive, a title byte (the title so far, newest first), or a title byte
that an 0x00 has escaped (R91, R93). -/
inductive HeaderMode where
  | directive
  | title (soFar : List Byte)
  | escaped (soFar : List Byte)
deriving DecidableEq, Repr

/-- A header fault: what it raises and the program offset it records (R158). -/
structure HeaderRaised where
  offset : Nat
  raised : Raised
deriving DecidableEq, Repr

/-- `MalformedHeader` at a program offset (R98, R99). -/
def malformedHeader (offset : Nat) (v : FaultValue) : HeaderRaised :=
  ⟨offset, raiseKind .malformedHeader v⟩

/-- `HeaderParse` and `ReadTitle` as one scan over the bytes from program offset `p` on (R91). It answers the
configuration and `hdr_len`, or the first fault. -/
def headerParse (mode : HeaderMode) (cfg : HeaderConfig) (p : Nat) :
    List Byte → Except HeaderRaised (HeaderConfig × Nat)
  | [] => .error (malformedHeader p .endOfProgram)
  | b :: rest =>
    match mode with
    | .escaped t => headerParse (.title (b :: t)) cfg (p + 1) rest
    | .title t =>
      if b = 0x01#8 then headerParse .directive { cfg with title := t.reverse } (p + 1) rest
      else if b = 0x00#8 then headerParse (.escaped t) cfg (p + 1) rest
      else headerParse (.title (b :: t)) cfg (p + 1) rest
    | .directive =>
      if b = 0x00#8 then .ok (cfg, p + 1)
      else if b = 0x01#8 then headerParse (.title []) cfg (p + 1) rest
      else if b = 0x02#8 then headerParse .directive { cfg with repeatPass := true } (p + 1) rest
      else if b = 0x03#8 then .error ⟨p, raiseKind .notImplemented (.byte b)⟩
      else if b = 0x04#8 then headerParse .directive { cfg with keepOpen := true } (p + 1) rest
      else if b = 0xD5#8 then headerParse .directive { cfg with debug := true } (p + 1) rest
      else .error (malformedHeader p (.byte b))

/-- The header has parsed: its configuration and length are kept, the host is constructed, the first pass starts
at body offset 0 (R90). -/
def State.startBody (s : State) (cfg : HeaderConfig) (hdrLen : Nat) : State :=
  { s with cfg := cfg, hdrLen := hdrLen, cursor := 0, phase := .run, log := .construct cfg :: s.log }

/-- The header step of phase HEADER (R90). A body of 2^64 bytes or more is refused (D18; log 11). -/
def stepHeader (s : State) : Host.Outcome State Fault Refusal :=
  match headerParse .directive s.cfg 0 s.prog with
  | .error e => .next (s.takeHeaderFault e.offset e.raised)
  | .ok (cfg, hdrLen) =>
    if 2 ^ 64 ≤ s.prog.length - hdrLen then .refused .bodyTooLong
    else .next (s.startBody cfg hdrLen)

end Sys2Proof.Machine
end

