-- ==== Sys2Proof/Machine/Step.lean ====
section
/-! DEFINITION. One step of the core, chosen by its phase (41_dispatcher.md R102), and the placing of one
instruction where the next step fetches it. -/

namespace Sys2Proof.Machine

/-- One step (R102). HALTED and FAULTED have no step: the machine stops there by name (log 6). -/
def step (s : State) : Host.Outcome State Fault Refusal :=
  match s.phase with
  | .header => stepHeader s
  | .run => stepRun s
  | .ended _ => stepEnd s
  | .idle => stepIdle s
  | .halted => .fault .halted
  | .faulted => .fault .faulted

/-- The state with one instruction loaded as its program, so that the very next step fetches and runs it: a
header of the terminator alone, already parsed, the instruction's bytes as the body, the cursor on them, phase
RUN, and a host that answers the poll of that step with "open" (log 3). -/
def State.withFetchWord (s : State) (nbits w : Nat) : State :=
  { s with
    phase := .run
    prog := 0x00#8 :: tableBytes nbits w
    hdrLen := 1
    cursor := 0
    answers := true :: s.answers }

end Sys2Proof.Machine
end

