-- ==== Sys2Proof/WellFormed.lean ====
section
/-! DEFINITION. Which instructions a valid program holds: no address byte 0xFF, array indices 0 to 7, and codes
that the parameter tables map (R54, R87). An instruction that fails a check still decodes and executes; it takes
the fault its rule names. -/

namespace Sys2Proof

/-- The address operands of an instruction, in operand order (R72). -/
def Instr.addrs : Instr → List Byte
  | .nop => []
  | .pixelLit _ _ _ => []
  | .pixelMem xAddr yAddr _ => [xAddr, yAddr]
  | .spriteBlit srcs xAddr yAddr => srcs.toList ++ [xAddr, yAddr]
  | .fdiv lhs rhs dest => [lhs, rhs, dest]
  | .fsub lhs rhs dest => [lhs, rhs, dest]
  | .fadd lhs rhs dest => [lhs, rhs, dest]
  | .fmul lhs rhs dest => [lhs, rhs, dest]
  | .div lhs rhs dest => [lhs, rhs, dest]
  | .sub lhs rhs dest => [lhs, rhs, dest]
  | .add lhs rhs dest => [lhs, rhs, dest]
  | .mul lhs rhs dest => [lhs, rhs, dest]
  | .notCell src dest => [src, dest]
  | .gt lhs rhs dest => [lhs, rhs, dest]
  | .lt lhs rhs dest => [lhs, rhs, dest]
  | .varSet _ _ dest => [dest]
  | .letCell _ _ dest => [dest]
  | .arrayWrite arrAddr _ _ => [arrAddr]
  | .tjmp condAddr _ => [condAddr]
  | .fjmp condAddr _ => [condAddr]
  | .jmp _ => []
  | .vjmp memAddr => [memAddr]
  | .key _ dest => [dest]
  | .render => []
  | .clear _ => []

/-- "address operands always in [0,255)" (R54). -/
def Instr.addrsOk (i : Instr) : Bool :=
  i.addrs.all fun a => decide (a.toNat < cellCount)

/-- The index of `ARRAY_WRITE` is 0 to 7 (R144). -/
def Instr.indexOk : Instr → Bool
  | .arrayWrite _ index _ => decide (index.toNat ≤ 7)
  | .pixelLit _ _ _ | .pixelMem _ _ _ | .clear _ | .key _ _ | .varSet _ _ _ | .letCell _ _ _ => true
  | .nop | .spriteBlit _ _ _ | .fdiv _ _ _ | .fsub _ _ _ | .fadd _ _ _ | .fmul _ _ _ => true
  | .div _ _ _ | .sub _ _ _ | .add _ _ _ | .mul _ _ _ | .notCell _ _ | .gt _ _ _ | .lt _ _ _ => true
  | .tjmp _ _ | .fjmp _ _ | .jmp _ | .vjmp _ | .render => true

/-- Every colour, key and tag byte is in the domain of its table (R80, R82, R83). -/
def Instr.codesOk (P : Params) : Instr → Bool
  | .pixelLit _ _ c => decide (c ∈ P.colors.map ColorRow.code)
  | .pixelMem _ _ c => decide (c ∈ P.colors.map ColorRow.code)
  | .clear c => decide (c ∈ P.colors.map ColorRow.code)
  | .key k _ => decide (k ∈ P.keys.map Prod.fst)
  | .varSet t _ _ => decide (t ∈ P.tags.map Prod.fst)
  | .letCell t _ _ => decide (t ∈ P.tags.map Prod.fst)
  | .nop | .spriteBlit _ _ _ | .fdiv _ _ _ | .fsub _ _ _ | .fadd _ _ _ | .fmul _ _ _ => true
  | .div _ _ _ | .sub _ _ _ | .add _ _ _ | .mul _ _ _ | .notCell _ _ | .gt _ _ _ | .lt _ _ _ => true
  | .arrayWrite _ _ _ | .tjmp _ _ | .fjmp _ _ | .jmp _ | .vjmp _ | .render => true

/-- A well-formed instruction, for the parameters `P`. -/
def Instr.wellFormed (P : Params) (i : Instr) : Bool :=
  i.addrsOk && i.indexOk && i.codesOk P

end Sys2Proof
end

