-- ==== Sys2Proof/Safety.lean ====
section
/-! DEFINITION. The terms claims are stated in: the invariant of the state, what an instruction may write, a fault
taken, a header as a list of directives, and the number a float pattern stands for. -/

namespace Sys2Proof.Machine

/-! ### The invariant -/

/-- Every Color of a frame is a Color of the table (R34). -/
abbrev frameColors (P : Params) (f : Frame) : Prop :=
  (match f.base with
    | .initial => True
    | .filled c => c ∈ P.colors.map ColorRow.color) ∧
  ∀ e ∈ f.pixels, e.2 ∈ P.colors.map ColorRow.color

/-- What holds of every state a run can reach. -/
structure State.Inv (s : State) : Prop where
  /-- The parameters meet the laws of R11 to R14. -/
  lawful : s.params.Lawful
  /-- The bank is in its canonical form: addresses 0 to 254 only (R28). -/
  memory : Memory.wf s.mem
  /-- The frame is in its canonical form: pixels inside the framebuffer only (R33). -/
  frame : frameWf s.params s.fb
  /-- A pixel holds a Color of the table (R34). -/
  colors : frameColors s.params s.fb
  /-- There is a fault record exactly in phase FAULTED (R46). -/
  record : s.phase = .faulted ↔ s.fault ≠ none
  /-- The alt-palette flag is never set (R43). -/
  altPalette : s.cfg.altPalette = false
  /-- Once the header has parsed, BODY_LEN is below 2^64 (R11, D18). -/
  bodyFits : s.phase = .header ∨ s.phase = .faulted ∨ s.bodyLen < 2 ^ 64

/-! ### Effects -/

/-- `t` is `s` after an instruction of length `len` that wrote `v` to the cell `dest` and nothing else: every
other cell and every other piece of state is as before. -/
def WritesCell (s t : State) (len : Nat) (dest : Byte) (v : CellValue) : Prop :=
  t = { s with mem := t.mem, cursor := s.cursor + BitVec.ofNat 64 len } ∧
  t.cell dest = v ∧ ∀ a, a ≠ dest → t.cell a = s.cell a

/-- `t` is `s` after an instruction of length `len` that wrote the Color `c` to pixel `i` and nothing else. -/
def WritesPixel (s t : State) (len i : Nat) (c : Color) : Prop :=
  t = { s with fb := t.fb, cursor := s.cursor + BitVec.ofNat 64 len } ∧
  t.pixel i = c ∧ ∀ j, j ≠ i → t.pixel j = s.pixel j

/-- `s` after an instruction of length `len` that wrote nothing but the cursor. -/
def State.past (s : State) (len : Nat) : State :=
  { s with cursor := s.cursor + BitVec.ofNat 64 len }

/-- `s` with a body fault of the instruction `i` taken: nothing but the phase and the record changes (R161). -/
def State.faultedBy (s : State) (i : Instr) (kind : FaultKind) (reason : Option UnmodelledReason)
    (value : FaultValue) : State :=
  { s with
    phase := .faulted
    fault := some ⟨kind, reason, .body, s.cursor.toNat, some i.opcode, value⟩ }

/-- A cell value that holds a number (R20). -/
def CellValue.numeric : CellValue → Bool
  | .int _ => true
  | .float _ => true
  | .str _ => false
  | .bytes _ => false
  | .empty => false

/-- The cell an instruction may write, if any (20_memory.md R51). -/
def destCell : Instr → Option Byte
  | .fdiv _ _ d | .fsub _ _ d | .fadd _ _ d | .fmul _ _ d => some d
  | .div _ _ d | .sub _ _ d | .add _ _ d | .mul _ _ d => some d
  | .notCell _ d | .gt _ _ d | .lt _ _ d => some d
  | .varSet _ _ d | .letCell _ _ d | .key _ d => some d
  | .arrayWrite a _ _ => some a
  | .nop | .pixelLit _ _ _ | .pixelMem _ _ _ | .spriteBlit _ _ _ | .render | .clear _ => none
  | .tjmp _ _ | .fjmp _ _ | .jmp _ | .vjmp _ => none

/-- The instructions that may write the framebuffer (20_memory.md R51). -/
def drawsPixels : Instr → Bool
  | .pixelLit _ _ _ | .pixelMem _ _ _ | .spriteBlit _ _ _ | .clear _ => true
  | .nop | .render | .key _ _ | .varSet _ _ _ | .letCell _ _ _ | .arrayWrite _ _ _ => false
  | .fdiv _ _ _ | .fsub _ _ _ | .fadd _ _ _ | .fmul _ _ _ => false
  | .div _ _ _ | .sub _ _ _ | .add _ _ _ | .mul _ _ _ | .notCell _ _ | .gt _ _ _ | .lt _ _ _ => false
  | .tjmp _ _ | .fjmp _ _ | .jmp _ | .vjmp _ => false

/-- The jumps (46_control.md). -/
def isJump : Instr → Bool
  | .tjmp _ _ | .fjmp _ _ | .jmp _ | .vjmp _ => true
  | .nop | .pixelLit _ _ _ | .pixelMem _ _ _ | .spriteBlit _ _ _ | .clear _ => false
  | .render | .key _ _ | .varSet _ _ _ | .letCell _ _ _ | .arrayWrite _ _ _ => false
  | .fdiv _ _ _ | .fsub _ _ _ | .fadd _ _ _ | .fmul _ _ _ => false
  | .div _ _ _ | .sub _ _ _ | .add _ _ _ | .mul _ _ _ | .notCell _ _ | .gt _ _ _ | .lt _ _ _ => false

/-- The instructions that may take a draw: `KEY` the host's answer (R152), a float instruction a NaN pattern (R126). -/
def takesDraw : Instr → Bool
  | .key _ _ | .fdiv _ _ _ | .fsub _ _ _ | .fadd _ _ _ | .fmul _ _ _ => true
  | .nop | .pixelLit _ _ _ | .pixelMem _ _ _ | .spriteBlit _ _ _ | .clear _ | .render => false
  | .div _ _ _ | .sub _ _ _ | .add _ _ _ | .mul _ _ _ | .notCell _ _ | .gt _ _ _ | .lt _ _ _ => false
  | .varSet _ _ _ | .letCell _ _ _ | .arrayWrite _ _ _ => false
  | .tjmp _ _ | .fjmp _ _ | .jmp _ | .vjmp _ => false

/-! ### Headers -/

/-- A byte of a title and whether a 0x00 escapes it in the program although it need not (R93). -/
structure TitleByte where
  value : Byte
  escaped : Bool
deriving DecidableEq, Repr

/-- How a title byte is written: 0x00 and 0x01 always after an escaping 0x00, every other byte after one or plain
(R93). -/
def TitleByte.bytes (b : TitleByte) : List Byte :=
  if b.escaped = true ∨ b.value = 0x00#8 ∨ b.value = 0x01#8 then [0x00#8, b.value] else [b.value]

/-- The bytes of a title before its closing 0x01 (R93). -/
def titleBytes (t : List TitleByte) : List Byte :=
  t.flatMap TitleByte.bytes

/-- A directive that a header may hold without a fault (R92 to R97). -/
inductive Directive where
  | setTitle (title : List TitleByte)
  | setRepeat
  | setKeepOpen
  | setDebug
deriving DecidableEq, Repr

/-- The bytes of a directive (R93 to R97). -/
def Directive.bytes : Directive → List Byte
  | .setTitle t => 0x01#8 :: (titleBytes t ++ [0x01#8])
  | .setRepeat => [0x02#8]
  | .setKeepOpen => [0x04#8]
  | .setDebug => [0xD5#8]

/-- The bytes of directives one after another (R69). -/
def directiveBytes (ds : List Directive) : List Byte :=
  ds.flatMap Directive.bytes

/-- What a directive does to the configuration (R93 to R97). -/
def Directive.apply (cfg : HeaderConfig) : Directive → HeaderConfig
  | .setTitle t => { cfg with title := t.map TitleByte.value }
  | .setRepeat => { cfg with repeatPass := true }
  | .setKeepOpen => { cfg with keepOpen := true }
  | .setDebug => { cfg with debug := true }

/-- `s` with a header fault taken (R46, R158, R161). -/
def State.headerFaulted (s : State) (kind : FaultKind) (offset : Nat) (value : FaultValue) : State :=
  { s with phase := .faulted, fault := some ⟨kind, none, .header, offset, none, value⟩ }

/-! ### Floats -/

/-- A finite pattern: neither NaN nor infinity (R126). -/
def f64Finite (b : Word) : Bool :=
  decide (f64Magnitude b < f64InfMagnitude)

/-- The number a finite pattern stands for (R126). -/
def f64Value (b : Word) : ℚ :=
  (if f64Neg b then -1 else 1) * (f64Significand b : ℚ) * (2 : ℚ) ^ f64Scale b

/-- The number a pattern that is no NaN stands for, with the two infinities below and above every number. -/
def f64Extended (b : Word) : WithBot (WithTop ℚ) :=
  if f64IsInf b then (if f64Neg b then ⊥ else ((⊤ : WithTop ℚ) : WithBot (WithTop ℚ)))
  else (((f64Value b : ℚ) : WithTop ℚ) : WithBot (WithTop ℚ))

/-- The number `num / den * 2 ^ e` with a sign. -/
def signedRatio (neg : Bool) (num den : Nat) (e : Int) : ℚ :=
  (if neg then -1 else 1) * ((num : ℚ) / (den : ℚ)) * (2 : ℚ) ^ e

end Sys2Proof.Machine
end

