-- ==== Sys2Proof/Certificates/Slice0/Obligations.lean ====
section
/-! DEFINITION. The statements for the provers. -/

namespace Sys2Proof.Claims

open Sys2Proof.Machine

/-- The illegal opcode bytes, as R86 lists them. -/
abbrev illegalOpcode (n : Nat) : Prop :=
  (0x04 ≤ n ∧ n ≤ 0xA0) ∨ (0xA4 ≤ n ∧ n ≤ 0xAF) ∨ (0xB3 ≤ n ∧ n ≤ 0xCF) ∨ (0xD1 ≤ n ∧ n ≤ 0xE0) ∨
  (0xE5 ≤ n ∧ n ≤ 0xEF) ∨ (0xF8 ≤ n ∧ n ≤ 0xFA) ∨ (0xFD ≤ n ∧ n ≤ 0xFF)

/-- A RUN step about to fetch: the host answers "open" to the poll of this step. -/
abbrev aboutToFetch (s : State) : Prop :=
  s.phase = .run ∧ s.nextAnswer = true

/-- A three-address instruction's operands are valid addresses. -/
abbrev validAddrs (l r d : Byte) : Prop :=
  l ≠ 0xFF#8 ∧ r ≠ 0xFF#8 ∧ d ≠ 0xFF#8

/-- What R127 to R130 give a float instruction on two Float cells: the result's pattern in `dest`, or any NaN
pattern when the result is a NaN; every other cell and, but for the draw, every other piece of state as before. -/
def floatResult (mk : Byte → Byte → Byte → Instr) (op : Word → Word → Option Word) : Prop :=
  ∀ (s : State) (l r d : Byte) (x y : Word), validAddrs l r d → s.cell l = .float x → s.cell r = .float y →
    (∀ f, op x y = some f → ∃ t, exec (mk l r d) s = .next t ∧ WritesCell s t 4 d (.float f)) ∧
    (op x y = none → ∃ t f, exec (mk l r d) s = .next t ∧ f64IsNaN f = true ∧
      t = { s with mem := t.mem, cursor := s.cursor + 4, draws := t.draws } ∧
      t.cell d = .float f ∧ ∀ a, a ≠ d → t.cell a = s.cell a)

/-- What R132 to R134 give an integer instruction on two Int cells: the exact result in `dest` when it is an
`i64`, else INTEGER_OVERFLOW. -/
def intResult (mk : Byte → Byte → Byte → Instr) (op : Int → Int → Int) : Prop :=
  ∀ (s : State) (l r d : Byte) (x y : Word), validAddrs l r d → s.cell l = .int x → s.cell r = .int y →
    (-2 ^ 63 ≤ op x.toInt y.toInt → op x.toInt y.toInt < 2 ^ 63 →
      ∃ t v, exec (mk l r d) s = .next t ∧ WritesCell s t 4 d (.int v) ∧ v.toInt = op x.toInt y.toInt) ∧
    (op x.toInt y.toInt < -2 ^ 63 ∨ 2 ^ 63 ≤ op x.toInt y.toInt →
      exec (mk l r d) s =
        .next (s.faultedBy (mk l r d) .unmodelled (some .integerOverflow) (.ints x.toInt y.toInt)))

/-- What R138 and R139 give a comparison on two Int cells and on two Float cells, infinities and NaN included. -/
def compareResult (mk : Byte → Byte → Byte → Instr) (onInt : Int → Int → Prop)
    (onFloat : WithBot (WithTop ℚ) → WithBot (WithTop ℚ) → Prop) : Prop :=
  ∀ (s : State) (l r d : Byte) (x y : Word), validAddrs l r d →
    (s.cell l = .int x → s.cell r = .int y →
      ∃ t b, exec (mk l r d) s = .next t ∧ WritesCell s t 4 d (.int b) ∧
        (onInt x.toInt y.toInt → b = 1) ∧ (¬ onInt x.toInt y.toInt → b = 0)) ∧
    (s.cell l = .float x → s.cell r = .float y →
      ∃ t b, exec (mk l r d) s = .next t ∧ WritesCell s t 4 d (.int b) ∧ (b = 0 ∨ b = 1) ∧
        (f64IsNaN x = true ∨ f64IsNaN y = true → b = 0) ∧
        (f64IsNaN x = false → f64IsNaN y = false → (b = 1 ↔ onFloat (f64Extended x) (f64Extended y))))

/-- The faults of operands that are no numbers, for an instruction that reads `lhs` and `rhs` as numeric: the
first operand that fails the tag check is reported with its value (R55; the order is the spec's own choice, D9). -/
def numericFaults (mk : Byte → Byte → Byte → Instr) : Prop :=
  ∀ (s : State) (l r d : Byte), validAddrs l r d →
    ((s.cell l).numeric = false →
      exec (mk l r d) s = .next (s.faultedBy (mk l r d) .typeMismatch none (.cell (s.cell l)))) ∧
    ((s.cell l).numeric = true → (s.cell r).numeric = false →
      exec (mk l r d) s = .next (s.faultedBy (mk l r d) .typeMismatch none (.cell (s.cell r))))

/-- Two numeric operands of which `bad` says that the instruction has no meaning for them fault MIXED_NUMERIC. -/
def mixedFaults (mk : Byte → Byte → Byte → Instr) (bad : CellValue → CellValue → Prop) : Prop :=
  ∀ (s : State) (l r d : Byte), validAddrs l r d →
    (s.cell l).numeric = true → (s.cell r).numeric = true → bad (s.cell l) (s.cell r) →
    exec (mk l r d) s =
      .next (s.faultedBy (mk l r d) .unmodelled (some .mixedNumeric) (.cells (s.cell l) (s.cell r)))

/-- The position of the pixel of slot `j` of source cell `k`, by SPRITE_LAYOUT (R122). -/
def spriteAt (P : Params) (ox oy : Word) (k j : Nat) : Int × Int :=
  match P.spriteLayout with
  | .rowMajor => (ox.toInt + j, oy.toInt + k)
  | .columnMajor => (ox.toInt + k, oy.toInt + j)

/-- A position is inside the framebuffer (R118). -/
abbrev inside (P : Params) (p : Int × Int) : Prop :=
  0 ≤ p.1 ∧ p.1 < 255 ∧ 0 ≤ p.2 ∧ p.2 < (P.fbHeight : Int)

/-- The sources and the origin of a sprite can be read: valid addresses, Bytes cells, Int cells (R123). -/
def spriteReadable (s : State) (srcs : Octet) (xAddr yAddr : Byte) (rows : Nat → Octet) (ox oy : Word) : Prop :=
  0xFF#8 ∉ srcs.toList ++ [xAddr, yAddr] ∧
  (∀ k < 8, s.cell (slotOf srcs k) = .bytes (rows k)) ∧ s.cell xAddr = .int ox ∧ s.cell yAddr = .int oy

/-- Slot `j` of source cell `k` raises no fault: its byte is a colour, and transparent or inside (R123). -/
def spriteByteFine (s : State) (rows : Nat → Octet) (ox oy : Word) (k j : Nat) : Prop :=
  ∃ c, paramColor s.params (slotOf (rows k) j) = some c ∧
    (c = .transparent ∨ inside s.params (spriteAt s.params ox oy k j))

/-- The type tag or key byte that an instruction decodes before it checks its address is mapped (R142, R152). -/
def leadingCodeMapped (P : Params) : Instr → Prop
  | .varSet t _ _ | .letCell t _ _ => (paramTag P t).isSome
  | .key k _ => (paramKey P k).isSome
  | .nop | .pixelLit _ _ _ | .pixelMem _ _ _ | .spriteBlit _ _ _ | .render | .clear _ => True
  | .fdiv _ _ _ | .fsub _ _ _ | .fadd _ _ _ | .fmul _ _ _ => True
  | .div _ _ _ | .sub _ _ _ | .add _ _ _ | .mul _ _ _ | .notCell _ _ | .gt _ _ _ | .lt _ _ _ => True
  | .arrayWrite _ _ _ | .tjmp _ _ | .fjmp _ _ | .jmp _ | .vjmp _ => True

/-- `s` with the debug flag at `b`. -/
def withDebug (b : Bool) (s : State) : State :=
  { s with cfg := { s.cfg with debug := b } }

/-- `s` with older host calls added below its log. -/
def withOlderLog (l : List HostCall) (s : State) : State :=
  { s with log := s.log ++ l }

/-- The same change made to the next state of an outcome. -/
def mapNext (f : State → State) : Host.Outcome State Fault Refusal → Host.Outcome State Fault Refusal
  | .next t => .next (f t)
  | .fault r => .fault r
  | .refused r => .refused r

end Sys2Proof.Claims

open Sys2Proof Sys2Proof.Machine Sys2Proof.Claims

/-! ### Reset and the invariant -/

/-- R50: the reset values. The pixels' values are a draw (log 4): the statement says only that each is a Color of
the table. -/
def Obligations.ResetState : Prop :=
  State.reset.phase = .header ∧ State.reset.cfg = ⟨[], false, false, false, false⟩ ∧
  State.reset.cursor = 0 ∧ (∀ a, State.reset.cell a = .empty) ∧ State.reset.fault = none ∧
  State.reset.log = [] ∧
  ∀ i, State.reset.pixel i ∈ State.reset.params.colors.map ColorRow.color

/-- The invariant of `State.Inv` holds at reset. -/
def Obligations.ResetMeetsInvariant : Prop :=
  State.reset.Inv

/-- Every step keeps the invariant, from every state that meets it. -/
def Obligations.StepKeepsInvariant : Prop :=
  ∀ s t : State, s.Inv → step s = .next t → t.Inv

/-! ### Encoding -/

/-- R70 to R72: decoding the encoding of any instruction, followed by any bytes, gives it back and leaves those
bytes. -/
def Obligations.DecodeOfEncodeIsIdentity : Prop :=
  ∀ (i : Instr) (rest : List Byte), decode (encode i ++ rest) = .ok (i, rest)

/-- R70, R85: bytes that decode to an instruction are its encoding, so no two encodings overlap and no bit of an
instruction is dropped. -/
def Obligations.DecodedBytesAreTheEncoding : Prop :=
  ∀ (bs : List Byte) (i : Instr) (rest : List Byte), decode bs = .ok (i, rest) → bs = encode i ++ rest

/-- R71, R72: words written out from the tables. -/
def Obligations.SpecWordsDecode : Prop :=
  decode [0x00] = .ok (.nop, []) ∧
  decode [0x02, 0x10, 0x11, 0x12] = .ok (.pixelMem 0x10 0x11 0x12, []) ∧
  decode [0x03, 1, 2, 3, 4, 5, 6, 7, 8, 9, 10] = .ok (.spriteBlit ⟨1, 2, 3, 4, 5, 6, 7, 8⟩ 9 10, []) ∧
  decode [0xF1, 0x00, 0x01, 0x02] = .ok (.fsub 0 1 2, []) ∧
  decode [0xF4, 0x00, 0x01, 0x02] = .ok (.div 0 1 2, []) ∧
  decode [0xB0, 0x03, 0x04] = .ok (.notCell 3 4, []) ∧
  decode [0xA1, 0x00, 0x07, 0, 0, 0, 0, 0, 0, 0, 0x05] = .ok (.varSet 0 ⟨7, 0, 0, 0, 0, 0, 0, 0⟩ 5, []) ∧
  decode [0xE1, 0x09, 0x01, 0x02, 0, 0, 0, 0, 0, 0x80] = .ok (.tjmp 9 0x8000000000000201, []) ∧
  decode [0xD0, 0x0E, 0x04, 0xFF] = .ok (.key 0x0E 4, [0xFF])

/-- R86, R104: the 231 illegal opcode bytes are exactly those the decoder rejects as unknown, and fetching one
raises UnknownOpcode with the byte and its offset, before any operand byte is read; besides the poll nothing but
the phase and the fault record changes. -/
def Obligations.IllegalOpcodesFault : Prop :=
  (∀ (op : Byte) (rest : List Byte), decode (op :: rest) = .error (.unknownOpcode op) ↔ illegalOpcode op.toNat) ∧
  ((List.range 256).filter fun n => decide (illegalOpcode n)).length = 231 ∧
  ∀ (s : State) (op : Byte) (rest : List Byte),
    aboutToFetch s → s.fetchBytes = op :: rest → illegalOpcode op.toNat →
    step s = .next { s.pollOpen with
      phase := .faulted
      fault := some ⟨.unknownOpcode, none, .body, s.cursor.toNat, some op, .byte op⟩ }

/-- R105: a known opcode with fewer operand bytes than it needs raises UnexpectedEndOfProgram with the number of
operand bytes present. -/
def Obligations.TruncatedInstructionFaults : Prop :=
  ∀ (s : State) (i : Instr) (operands : List Byte),
    aboutToFetch s → s.fetchBytes = i.opcode :: operands → operands.length < i.length - 1 →
    step s = .next { s.pollOpen with
      phase := .faulted
      fault := some ⟨.unexpectedEndOfProgram, none, .body, s.cursor.toNat, some i.opcode, .count operands.length⟩ }

/-! ### Steps -/

/-- R103, R109: a RUN step with the host open runs exactly the instruction decoded at the cursor, in the state
after the poll, and adds `pumpEvents` when the instruction completed and nothing when it faulted (the poll first and
`pumpEvents` after completion only are the spec's own choices D21 and D31). -/
def Obligations.StepRunsDecodedInstruction : Prop :=
  ∀ (s : State) (i : Instr) (rest : List Byte),
    aboutToFetch s → decode s.fetchBytes = .ok (i, rest) →
    s.pollOpen = { s.answered with log := .isOpen true :: s.log } ∧
    ∃ u, exec i s.pollOpen = .next u ∧
      (u.phase ≠ .faulted → step s = .next { u with log := .pumpEvents :: u.log }) ∧
      (u.phase = .faulted → step s = .next u)

/-- R106: a cursor at or past the end of the body ends the pass without a fault at the next RUN step. That this step
has polled the host before is the spec's own choice of the order, D21. -/
def Obligations.EndOfBodyEndsPass : Prop :=
  ∀ s : State, aboutToFetch s → s.prog.length - s.hdrLen ≤ s.cursor.toNat →
    step s = .next { s.pollOpen with phase := .ended .exhausted }

/-- R103, D21 (the spec's own choice of the order): a host that answers "closed" ends the pass before anything is
fetched, whatever the body holds. -/
def Obligations.ClosedHostEndsPass : Prop :=
  ∀ s : State, s.phase = .run → s.nextAnswer = false →
    step s = .next { s.pollOpen with phase := .ended .closed }

/-- R110: the post-loop rule, for either reason. -/
def Obligations.PostLoopRule : Prop :=
  ∀ (s : State) (r : EndReason), s.phase = .ended r →
    (s.cfg.repeatPass = true → step s = .next { s with cursor := 0, phase := .run }) ∧
    (s.cfg.repeatPass = false → s.cfg.keepOpen = true → step s = .next { s with phase := .idle }) ∧
    (s.cfg.repeatPass = false → s.cfg.keepOpen = false → step s = .next { s with phase := .halted })

/-- R111, D24: one poll per idle step; a closed host wakes the core into HALTED, and nothing else changes. -/
def Obligations.IdleStepPolls : Prop :=
  ∀ s : State, s.phase = .idle →
    (s.nextAnswer = true → step s = .next s.pollOpen) ∧
    (s.nextAnswer = false → step s = .next { s.pollOpen with phase := .halted })

/-- R112, D22 (the spec's own choice): with repeat set, a pass that a closed host ended restarts like any other;
cells, pixels and configuration stay, nothing is executed. -/
def Obligations.ClosedHostWithRepeatRestarts : Prop :=
  ∀ s : State, s.phase = .run → s.nextAnswer = false → s.cfg.repeatPass = true →
    ∃ t u, step s = .next t ∧ step t = .next u ∧ u.phase = .run ∧ u.cursor = 0 ∧
      u.mem = s.mem ∧ u.fb = s.fb ∧ u.cfg = s.cfg ∧ u.log = .isOpen false :: s.log

/-- R45: reset is in phase HEADER, and no step leaves HALTED or FAULTED. -/
def Obligations.StoppedPhasesHaveNoStep : Prop :=
  State.reset.phase = .header ∧
  ∀ s t : State, s.phase = .halted ∨ s.phase = .faulted → step s ≠ .next t

/-! ### The header -/

/-- R90 to R97: a header of any directives that fault not, then the terminator, sets the configuration the
directives say, in order, constructs the host with it and starts the first pass at body offset 0. A title is any
bytes, 0x00 and 0x01 written after an escaping 0x00 and each other byte after one or plain (R93). Repeated directives, the `construct` call and
debug follow the spec's own choices D26, D27 and D29. -/
def Obligations.HeaderOfDirectivesParses : Prop :=
  ∀ (s : State) (ds : List Directive) (body : List Byte),
    s.phase = .header → s.prog = directiveBytes ds ++ 0x00 :: body → body.length < 2 ^ 64 →
    step s = .next { s with
      cfg := ds.foldl Directive.apply s.cfg
      hdrLen := (directiveBytes ds).length + 1
      cursor := 0
      phase := .run
      log := .construct (ds.foldl Directive.apply s.cfg) :: s.log }

/-- R95: the SET_ALT_PALETTE directive raises NotImplemented at its own offset, and the writes of the directives
before it are discarded. -/
def Obligations.AltPaletteIsNotImplemented : Prop :=
  ∀ (s : State) (ds : List Directive) (rest : List Byte),
    s.phase = .header → s.prog = directiveBytes ds ++ 0x03 :: rest →
    step s = .next (s.headerFaulted .notImplemented (directiveBytes ds).length (.byte 0x03))

/-- R98: any other byte at a directive position raises MalformedHeader with the byte and its offset. -/
def Obligations.UnknownDirectiveFaults : Prop :=
  ∀ (s : State) (ds : List Directive) (b : Byte) (rest : List Byte),
    s.phase = .header → s.prog = directiveBytes ds ++ b :: rest →
    b ∉ [0x00#8, 0x01#8, 0x02#8, 0x03#8, 0x04#8, 0xD5#8] →
    step s = .next (s.headerFaulted .malformedHeader (directiveBytes ds).length (.byte b))

/-- R93, R99, D25: a program that ends at a directive position, inside a title or right after a title's escape
raises MalformedHeader with END at the program's length. -/
def Obligations.TruncatedHeaderFaults : Prop :=
  ∀ (s : State) (ds : List Directive) (t : List TitleByte), s.phase = .header →
    s.prog = directiveBytes ds ∨ s.prog = directiveBytes ds ++ 0x01 :: titleBytes t ∨
      s.prog = directiveBytes ds ++ 0x01 :: (titleBytes t ++ [0x00]) →
    step s = .next (s.headerFaulted .malformedHeader s.prog.length .endOfProgram)

/-- R42: only the header step writes the configuration, and a flag only changes from false to true. -/
def Obligations.ConfigurationOnlyWrittenInHeader : Prop :=
  ∀ s t : State, step s = .next t →
    (s.phase ≠ .header → t.cfg = s.cfg) ∧
    (s.cfg.repeatPass = true → t.cfg.repeatPass = true) ∧
    (s.cfg.altPalette = true → t.cfg.altPalette = true) ∧
    (s.cfg.keepOpen = true → t.cfg.keepOpen = true) ∧
    (s.cfg.debug = true → t.cfg.debug = true)

/-- R67: no step writes the program, so once the header has parsed every fetch reads the bytes the loader
supplied. -/
def Obligations.ProgramIsNeverWritten : Prop :=
  ∀ s t : State, step s = .next t →
    t.prog = s.prog ∧ (s.phase ≠ .header → t.body = s.body) ∧ t.params = s.params

/-! ### Drawing and display -/

/-- R80, R82, R83: the colour, key and type tag tables are closed mappings: a byte of a row decodes to what the row
says, and a byte of no row faults with the byte, never a default. -/
def Obligations.CodesDecodeByTheirTables : Prop :=
  ∀ P : Params, P.Lawful →
    (∀ row ∈ P.colors, colorDecode P row.code = .ok row.color) ∧
    (∀ b, b ∉ P.colors.map ColorRow.code → colorDecode P b = .error ⟨.unknownColorCode, none, .byte b⟩) ∧
    (∀ row ∈ P.keys, keyDecode P row.1 = .ok row.2) ∧
    (∀ b, b ∉ P.keys.map Prod.fst → keyDecode P b = .error ⟨.unknownKeyCode, none, .byte b⟩) ∧
    (∀ row ∈ P.tags, tagDecode P row.1 = .ok row.2) ∧
    (∀ b, b ∉ P.tags.map Prod.fst → tagDecode P b = .error ⟨.unknownTypeTag, none, .byte b⟩)

/-- R155, D4: every mapped byte's Color encodes to four bytes in the order of PIXEL_FORMAT: the red, green and blue
bytes that COLOR_RGB gives the Color of the byte's row, and 0xFF for alpha, Transparent included. -/
def Obligations.EncodedPixelsAreOpaque : Prop :=
  ∀ (P : Params) (b : Byte) (c : Color), P.Lawful → paramColor P b = some c →
    ∃ row ∈ P.colors, row.code = b ∧ row.color = c ∧
      ∃ px, colorEncode P c = some px ∧ px.length = 4 ∧ ∀ k : Nat,
        (P.pixelFormat[k]? = some Channel.red → px[k]? = some row.rgb.red) ∧
        (P.pixelFormat[k]? = some Channel.green → px[k]? = some row.rgb.green) ∧
        (P.pixelFormat[k]? = some Channel.blue → px[k]? = some row.rgb.blue) ∧
        (P.pixelFormat[k]? = some Channel.alpha → px[k]? = some 0xFF#8)

/-- R119: PIXEL_LIT on a mapped colour byte: a Transparent colour writes nothing and checks nothing, another
writes its pixel, or faults FRAMEBUFFER_RANGE (D16, the spec's own choice) outside the framebuffer. -/
def Obligations.PixelLitDrawsOnePixel : Prop :=
  ∀ (s : State) (x y b : Byte) (c : Color), paramColor s.params b = some c →
    (c = .transparent → exec (.pixelLit x y b) s = .next (s.past 4)) ∧
    (c ≠ .transparent → x.toNat < 255 → y.toNat < s.params.fbHeight →
      ∃ t, exec (.pixelLit x y b) s = .next t ∧ WritesPixel s t 4 (x.toNat + y.toNat * 255) c) ∧
    (c ≠ .transparent → x.toNat = 255 ∨ s.params.fbHeight ≤ y.toNat →
      exec (.pixelLit x y b) s =
        .next (s.faultedBy (.pixelLit x y b) .unmodelled (some .framebufferRange) (.point x.toNat y.toNat)))

/-- R120, R121: PIXEL_MEM takes its coordinates modulo the width and the height; a Transparent colour writes
nothing. -/
def Obligations.PixelMemWrapsCoordinates : Prop :=
  ∀ (s : State) (xa ya b : Byte) (c : Color) (x y : Word),
    xa ≠ 0xFF#8 → ya ≠ 0xFF#8 → paramColor s.params b = some c →
    s.cell xa = .int x → s.cell ya = .int y → 0 ≤ x.toInt → 0 ≤ y.toInt →
    (c = .transparent → exec (.pixelMem xa ya b) s = .next (s.past 4)) ∧
    (c ≠ .transparent → ∃ t, exec (.pixelMem xa ya b) s = .next t ∧
      WritesPixel s t 4 ((x.toInt % 255).toNat + (y.toInt % s.params.fbHeight).toNat * 255) c)

/-- R120, D15 (the spec's own choice): a Float or a negative coordinate faults, x before y, after the tag checks
of both cells and whatever the colour. -/
def Obligations.PixelMemCoordinateFaults : Prop :=
  ∀ (s : State) (xa ya b : Byte) (c : Color),
    xa ≠ 0xFF#8 → ya ≠ 0xFF#8 → paramColor s.params b = some c →
    ((s.cell xa).numeric = false →
      exec (.pixelMem xa ya b) s = .next (s.faultedBy (.pixelMem xa ya b) .typeMismatch none (.cell (s.cell xa)))) ∧
    ((s.cell xa).numeric = true → (s.cell ya).numeric = false →
      exec (.pixelMem xa ya b) s = .next (s.faultedBy (.pixelMem xa ya b) .typeMismatch none (.cell (s.cell ya)))) ∧
    (∀ f, s.cell xa = .float f → (s.cell ya).numeric = true →
      exec (.pixelMem xa ya b) s =
        .next (s.faultedBy (.pixelMem xa ya b) .unmodelled (some .floatCoordinate) (.cell (.float f)))) ∧
    (∀ x, s.cell xa = .int x → x.toInt < 0 → (s.cell ya).numeric = true →
      exec (.pixelMem xa ya b) s =
        .next (s.faultedBy (.pixelMem xa ya b) .unmodelled (some .negativeCoordinate) (.cell (.int x)))) ∧
    (∀ x f, s.cell xa = .int x → 0 ≤ x.toInt → s.cell ya = .float f →
      exec (.pixelMem xa ya b) s =
        .next (s.faultedBy (.pixelMem xa ya b) .unmodelled (some .floatCoordinate) (.cell (.float f)))) ∧
    (∀ x y, s.cell xa = .int x → 0 ≤ x.toInt → s.cell ya = .int y → y.toInt < 0 →
      exec (.pixelMem xa ya b) s =
        .next (s.faultedBy (.pixelMem xa ya b) .unmodelled (some .negativeCoordinate) (.cell (.int y))))

/-- R122, R123 (rows or columns is open, D14): a sprite whose 64 bytes all are colours and
whose opaque pixels all land inside is drawn: each opaque pixel is its Color, every other pixel is as before, and nothing else changes. -/
def Obligations.SpriteBlitDrawsOpaquePixels : Prop :=
  ∀ (s : State) (srcs : Octet) (xa ya : Byte) (rows : Nat → Octet) (ox oy : Word),
    spriteReadable s srcs xa ya rows ox oy →
    (∀ k < 8, ∀ j < 8, spriteByteFine s rows ox oy k j) →
    ∃ t, exec (.spriteBlit srcs xa ya) s = .next t ∧
      t = { s with fb := t.fb, cursor := s.cursor + 11 } ∧
      (∀ k < 8, ∀ j < 8, ∀ c, paramColor s.params (slotOf (rows k) j) = some c → c ≠ .transparent →
        t.pixel ((spriteAt s.params ox oy k j).1.toNat + (spriteAt s.params ox oy k j).2.toNat * 255) = c) ∧
      ∀ n, (∀ k < 8, ∀ j < 8, ∀ c, paramColor s.params (slotOf (rows k) j) = some c → c ≠ .transparent →
          (spriteAt s.params ox oy k j).1.toNat + (spriteAt s.params ox oy k j).2.toNat * 255 ≠ n) →
        t.pixel n = s.pixel n

/-- R123, D16: the first byte in scan order that raises a fault decides it: UnknownColorCode for an unmapped byte,
FRAMEBUFFER_RANGE for an opaque pixel outside. No pixel is written. -/
def Obligations.SpriteBlitFirstFaultWins : Prop :=
  ∀ (s : State) (srcs : Octet) (xa ya : Byte) (rows : Nat → Octet) (ox oy : Word) (k j : Nat),
    spriteReadable s srcs xa ya rows ox oy → k < 8 → j < 8 →
    (∀ k' < 8, ∀ j' < 8, 8 * k' + j' < 8 * k + j → spriteByteFine s rows ox oy k' j') →
    (paramColor s.params (slotOf (rows k) j) = none →
      exec (.spriteBlit srcs xa ya) s =
        .next (s.faultedBy (.spriteBlit srcs xa ya) .unknownColorCode none (.byte (slotOf (rows k) j)))) ∧
    (∀ c, paramColor s.params (slotOf (rows k) j) = some c → c ≠ .transparent →
      ¬ inside s.params (spriteAt s.params ox oy k j) →
      exec (.spriteBlit srcs xa ya) s =
        .next (s.faultedBy (.spriteBlit srcs xa ya) .unmodelled (some .framebufferRange)
          (.point (spriteAt s.params ox oy k j).1 (spriteAt s.params ox oy k j).2)))

/-- R123, R55: the first source cell that is not Bytes faults TypeMismatch (a Str cell too, D17), then the x
origin, then the y origin, when it is not Int. -/
def Obligations.SpriteBlitOperandFaults : Prop :=
  ∀ (s : State) (srcs : Octet) (xa ya : Byte), 0xFF#8 ∉ srcs.toList ++ [xa, ya] →
    (∀ k < 8, (∀ k' < k, ∃ b, s.cell (slotOf srcs k') = .bytes b) → (∀ b, s.cell (slotOf srcs k) ≠ .bytes b) →
      exec (.spriteBlit srcs xa ya) s =
        .next (s.faultedBy (.spriteBlit srcs xa ya) .typeMismatch none (.cell (s.cell (slotOf srcs k))))) ∧
    ((∀ k < 8, ∃ b, s.cell (slotOf srcs k) = .bytes b) → (∀ i, s.cell xa ≠ .int i) →
      exec (.spriteBlit srcs xa ya) s =
        .next (s.faultedBy (.spriteBlit srcs xa ya) .typeMismatch none (.cell (s.cell xa)))) ∧
    ((∀ k < 8, ∃ b, s.cell (slotOf srcs k) = .bytes b) → (∃ i, s.cell xa = .int i) → (∀ i, s.cell ya ≠ .int i) →
      exec (.spriteBlit srcs xa ya) s =
        .next (s.faultedBy (.spriteBlit srcs xa ya) .typeMismatch none (.cell (s.cell ya))))

/-- R154, D35: CLEAR sets every pixel to the decoded Color, Transparent included, and changes nothing else. -/
def Obligations.ClearFillsTheFramebuffer : Prop :=
  ∀ (s : State) (b : Byte) (c : Color), paramColor s.params b = some c →
    ∃ t, exec (.clear b) s = .next t ∧ t = { s with fb := t.fb, cursor := s.cursor + 2 } ∧ ∀ i, t.pixel i = c

/-- R153: RENDER presents a copy of the framebuffer as it stands, and writes no core state but the cursor. -/
def Obligations.RenderPresentsTheFramebuffer : Prop :=
  ∀ s : State, ∃ snapshot,
    exec .render s =
      .next { s with log := .present snapshot :: s.log, cursor := s.cursor + 1 } ∧
    ∀ i, framePixel s.params snapshot i = s.pixel i

/-- R152, D23: KEY samples the key when it executes: the host's answer becomes Int(1) or Int(0) in `dest`, the call
is logged, and every other cell and piece of core state is as before. -/
def Obligations.KeySamplesTheHost : Prop :=
  ∀ (s : State) (b d : Byte) (k : Key), paramKey s.params b = some k → d ≠ 0xFF#8 →
    ∃ t, exec (.key b d) s = .next t ∧
      t = { s.answered with
        mem := t.mem, cursor := s.cursor + 3, log := .isKeyPressed k s.nextAnswer :: s.log } ∧
      t.cell d = (if s.nextAnswer then .int 1 else .int 0) ∧ ∀ a, a ≠ d → t.cell a = s.cell a

/-! ### Arithmetic, logic and comparison -/

/-- R125 to R130: the four float instructions (IEEE 754 with a free NaN pattern, D10, and operands read before the
result is written, D36, are the spec's own choices). -/
def Obligations.FloatInstructionsWriteResults : Prop :=
  floatResult .fadd fadd64 ∧ floatResult .fsub fsub64 ∧ floatResult .fmul fmul64 ∧ floatResult .fdiv fdiv64

/-- R126 to R130 (IEEE 754, from general knowledge as the spec says, D10): when a float operation gives a NaN, and
every other result on an infinity, on a zero or of an exact cancellation. With `FloatOperationsRoundTheExactResult`
this gives each operation on every pair of operands. -/
def Obligations.FloatSpecialCases : Prop :=
  ∀ x y : Word,
    (fadd64 x y = none ↔ f64IsNaN x = true ∨ f64IsNaN y = true ∨
      (f64IsInf x = true ∧ f64IsInf y = true ∧ f64Neg x ≠ f64Neg y)) ∧
    (fsub64 x y = none ↔ f64IsNaN x = true ∨ f64IsNaN y = true ∨
      (f64IsInf x = true ∧ f64IsInf y = true ∧ f64Neg x = f64Neg y)) ∧
    (fmul64 x y = none ↔ f64IsNaN x = true ∨ f64IsNaN y = true ∨
      (f64IsInf x = true ∧ f64IsZero y = true) ∨ (f64IsZero x = true ∧ f64IsInf y = true)) ∧
    (fdiv64 x y = none ↔ f64IsNaN x = true ∨ f64IsNaN y = true ∨
      (f64IsInf x = true ∧ f64IsInf y = true) ∨ (f64IsZero x = true ∧ f64IsZero y = true)) ∧
    -- sums: an infinity wins over a finite operand and over an infinity of its sign; an exact zero is -0 only when
    -- both operands are negative
    (f64IsInf x = true → f64Finite y = true ∨ y = x → fadd64 x y = some x) ∧
    (f64Finite x = true → f64IsInf y = true → fadd64 x y = some y) ∧
    (f64Finite x = true → f64Finite y = true → f64Value x + f64Value y = 0 →
      fadd64 x y = some (f64Pack (f64Neg x && f64Neg y) 0)) ∧
    -- differences
    (f64IsInf x = true → f64Finite y = true → fsub64 x y = some x) ∧
    (f64IsInf x = true → f64IsInf y = true → f64Neg x ≠ f64Neg y → fsub64 x y = some x) ∧
    (f64Finite x = true → f64IsInf y = true → fsub64 x y = some (f64Inf (!f64Neg y))) ∧
    (f64Finite x = true → f64Finite y = true → f64Value x - f64Value y = 0 →
      fsub64 x y = some (f64Pack (f64Neg x && !f64Neg y) 0)) ∧
    (f64Finite x = true → fsub64 x x = some 0) ∧
    -- products
    (f64IsInf x = true → f64IsNaN y = false → f64IsZero y = false →
      fmul64 x y = some (f64Inf (f64Neg x != f64Neg y))) ∧
    (f64IsInf y = true → f64IsNaN x = false → f64IsZero x = false →
      fmul64 x y = some (f64Inf (f64Neg x != f64Neg y))) ∧
    (f64Finite x = true → f64IsZero y = true → fmul64 x y = some (f64Pack (f64Neg x != f64Neg y) 0)) ∧
    (f64IsZero x = true → f64Finite y = true → fmul64 x y = some (f64Pack (f64Neg x != f64Neg y) 0)) ∧
    -- quotients
    (f64IsInf x = true → f64Finite y = true → fdiv64 x y = some (f64Inf (f64Neg x != f64Neg y))) ∧
    (f64Finite x = true → f64IsInf y = true → fdiv64 x y = some (f64Pack (f64Neg x != f64Neg y) 0)) ∧
    (f64Finite x = true → f64IsZero x = false → f64IsZero y = true →
      fdiv64 x y = some (f64Inf (f64Neg x != f64Neg y))) ∧
    (f64IsZero x = true → f64Finite y = true → f64IsZero y = false →
      fdiv64 x y = some (f64Pack (f64Neg x != f64Neg y) 0))

/-- R126 (D10, the spec's own choice): a float operation on finite operands with a non-zero result rounds the exact
result once. -/
def Obligations.FloatOperationsRoundTheExactResult : Prop :=
  ∀ x y : Word, f64Finite x = true → f64Finite y = true →
    (f64Value x + f64Value y ≠ 0 → ∃ neg n d e, 0 < n ∧ 0 < d ∧
      signedRatio neg n d e = f64Value x + f64Value y ∧ fadd64 x y = some (f64Round neg n d e)) ∧
    (f64Value x - f64Value y ≠ 0 → ∃ neg n d e, 0 < n ∧ 0 < d ∧
      signedRatio neg n d e = f64Value x - f64Value y ∧ fsub64 x y = some (f64Round neg n d e)) ∧
    (f64Value x * f64Value y ≠ 0 → ∃ neg n d e, 0 < n ∧ 0 < d ∧
      signedRatio neg n d e = f64Value x * f64Value y ∧ fmul64 x y = some (f64Round neg n d e)) ∧
    (f64Value y ≠ 0 → f64Value x ≠ 0 → ∃ neg n d e, 0 < n ∧ 0 < d ∧
      signedRatio neg n d e = f64Value x / f64Value y ∧ fdiv64 x y = some (f64Round neg n d e))

/-- R126 (rounding to nearest, ties to even, from general knowledge as the spec says): a rounded result is a finite
pattern nearest to the exact number, an even one where two are equally near; or the infinity of its sign, exactly
when the exact magnitude is at least half a last place above the greatest finite number. The sign is the exact
number's, a result that rounds to zero included. -/
def Obligations.RoundingIsToNearestEven : Prop :=
  ∀ (neg : Bool) (n d : Nat) (e : Int), 0 < n → 0 < d →
    f64Neg (f64Round neg n d e) = neg ∧
    (f64Finite (f64Round neg n d e) = true →
      ∀ g, f64Finite g = true →
        |f64Value (f64Round neg n d e) - signedRatio neg n d e| ≤ |f64Value g - signedRatio neg n d e| ∧
        (|f64Value (f64Round neg n d e) - signedRatio neg n d e| = |f64Value g - signedRatio neg n d e| →
          f64Value g ≠ f64Value (f64Round neg n d e) → (f64Round neg n d e).toNat % 2 = 0)) ∧
    (f64Finite (f64Round neg n d e) = false → f64Round neg n d e = f64Inf neg) ∧
    (f64Finite (f64Round neg n d e) = false ↔
      ((2 ^ 54 - 1 : ℚ) * 2 ^ 970) ≤ (n : ℚ) / (d : ℚ) * (2 : ℚ) ^ e)

/-- R125, R131 to R134: ADD, SUB and MUL are exact on `i64`, and a result outside it faults INTEGER_OVERFLOW (D13,
the spec's own choice). -/
def Obligations.IntegerInstructionsAreExact : Prop :=
  intResult .add (· + ·) ∧ intResult .sub (· - ·) ∧ intResult .mul (· * ·)

/-- R135: DIV truncates toward zero, faults DivideByZero on a zero divisor, and INTEGER_OVERFLOW on -2^63 / -1 only
(D13). -/
def Obligations.DivTruncatesTowardZero : Prop :=
  ∀ (s : State) (l r d : Byte) (x y : Word), validAddrs l r d → s.cell l = .int x → s.cell r = .int y →
    (y.toInt = 0 →
      exec (.div l r d) s = .next (s.faultedBy (.div l r d) .divideByZero none (.ints x.toInt 0))) ∧
    (x.toInt = -2 ^ 63 → y.toInt = -1 →
      exec (.div l r d) s =
        .next (s.faultedBy (.div l r d) .unmodelled (some .integerOverflow) (.ints x.toInt y.toInt))) ∧
    (y.toInt ≠ 0 → ¬ (x.toInt = -2 ^ 63 ∧ y.toInt = -1) →
      ∃ t q, exec (.div l r d) s = .next t ∧ WritesCell s t 4 d (.int q) ∧
        |q.toInt * y.toInt| ≤ |x.toInt| ∧ |x.toInt - q.toInt * y.toInt| < |y.toInt| ∧
        0 ≤ (x.toInt - q.toInt * y.toInt) * x.toInt)

/-- R55, R124, R137: an operand that holds no number faults TypeMismatch, lhs before rhs, in the eight arithmetic
instructions and in GT and LT. -/
def Obligations.NumericReadsRejectOtherTags : Prop :=
  numericFaults .fadd ∧ numericFaults .fsub ∧ numericFaults .fmul ∧ numericFaults .fdiv ∧
  numericFaults .add ∧ numericFaults .sub ∧ numericFaults .mul ∧ numericFaults .div ∧
  numericFaults .gt ∧ numericFaults .lt

/-- R124, R137, D12 (the spec's own choice): numeric operands of the wrong kind fault MIXED_NUMERIC: float
instructions take two Floats, integer instructions two Ints, comparisons two of one kind. -/
def Obligations.MixedNumericOperandsFault : Prop :=
  (∀ mk ∈ [Instr.fadd, Instr.fsub, Instr.fmul, Instr.fdiv],
    mixedFaults mk fun vl vr => (∃ i, vl = .int i) ∨ ∃ i, vr = .int i) ∧
  (∀ mk ∈ [Instr.add, Instr.sub, Instr.mul, Instr.div],
    mixedFaults mk fun vl vr => (∃ f, vl = .float f) ∨ ∃ f, vr = .float f) ∧
  (∀ mk ∈ [Instr.gt, Instr.lt],
    mixedFaults mk fun vl vr =>
      (∃ i f, vl = .int i ∧ vr = .float f) ∨ ∃ f i, vl = .float f ∧ vr = .int i)

/-- R136: NOT writes Int(1) when the cell is exactly Int(0) and Int(0) for every other value, of any tag. -/
def Obligations.NotIsPermissive : Prop :=
  ∀ (s : State) (a d : Byte), a ≠ 0xFF#8 → d ≠ 0xFF#8 →
    (s.cell a = .int 0 → ∃ t, exec (.notCell a d) s = .next t ∧ WritesCell s t 3 d (.int 1)) ∧
    (s.cell a ≠ .int 0 → ∃ t, exec (.notCell a d) s = .next t ∧ WritesCell s t 3 d (.int 0))

/-- R137 to R139, D33 (the spec's own choice of the direction and of IEEE comparison): GT and LT
compare Ints as signed numbers and Floats as the numbers they stand for; a NaN operand gives Int(0). -/
def Obligations.ComparisonsOrderNumbers : Prop :=
  compareResult .gt (· > ·) (· > ·) ∧ compareResult .lt (· < ·) (· < ·)

/-! ### Cells -/

/-- R84, R141, R142: VAR_SET writes the literal its tag and payload say, whatever the cell held; the literal is
little-endian for Int and Float and the bytes themselves for Str and Bytes. -/
def Obligations.VarSetAlwaysOverwrites : Prop :=
  ∀ (s : State) (tag : Byte) (p : Octet) (d : Byte) (k : Tag), d ≠ 0xFF#8 → paramTag s.params tag = some k →
    ∃ t v, exec (.varSet tag p d) s = .next t ∧ WritesCell s t 11 d v ∧
      (k = .str → v = .str p) ∧ (k = .bytes → v = .bytes p) ∧
      ∃ w : Word, (∀ n < 8, byteOfNat w.toNat n = slotOf p n) ∧ (k = .int → v = .int w) ∧ (k = .float → v = .float w)

/-- R143, D34: LET writes what VAR_SET would to an Empty cell, and nothing to any other. -/
def Obligations.LetWritesOnlyEmptyCells : Prop :=
  ∀ (s : State) (tag : Byte) (p : Octet) (d : Byte), d ≠ 0xFF#8 → (paramTag s.params tag).isSome →
    (s.cell d = .empty →
      ∃ t u, exec (.letCell tag p d) s = .next t ∧ exec (.varSet tag p d) s = .next u ∧
        WritesCell s t 11 d (u.cell d) ∧ t.cell d ≠ .empty) ∧
    (s.cell d ≠ .empty → exec (.letCell tag p d) s = .next (s.past 11))

/-- R57, R144: ARRAY_WRITE replaces one slot of an array cell and keeps its tag and its other slots. -/
def Obligations.ArrayWriteReplacesOneSlot : Prop :=
  ∀ (s : State) (a i v : Byte) (w : Octet), a ≠ 0xFF#8 → i.toNat ≤ 7 →
    ∃ w' : Octet, slotOf w' i.toNat = v ∧ (∀ n < 8, n ≠ i.toNat → slotOf w' n = slotOf w n) ∧
      (s.cell a = .bytes w → ∃ t, exec (.arrayWrite a i v) s = .next t ∧ WritesCell s t 4 a (.bytes w')) ∧
      (s.cell a = .str w → ∃ t, exec (.arrayWrite a i v) s = .next t ∧ WritesCell s t 4 a (.str w'))

/-- R144: an index above 7 faults IndexOutOfRange whatever the cell holds; then a cell that is no array faults
TypeMismatch (the order is the spec's own choice, D9). -/
def Obligations.ArrayWriteFaults : Prop :=
  ∀ (s : State) (a i v : Byte), a ≠ 0xFF#8 →
    (7 < i.toNat →
      exec (.arrayWrite a i v) s =
        .next (s.faultedBy (.arrayWrite a i v) .indexOutOfRange none (.count i.toNat))) ∧
    (i.toNat ≤ 7 → (∀ w, s.cell a ≠ .bytes w) → (∀ w, s.cell a ≠ .str w) →
      exec (.arrayWrite a i v) s =
        .next (s.faultedBy (.arrayWrite a i v) .typeMismatch none (.cell (s.cell a))))

/-! ### Control -/

/-- R145 to R148: TJMP jumps exactly when the cell is Int(1) and FJMP exactly when it is not; a jump not taken goes
on after its 10 bytes. Nothing but the cursor changes. -/
def Obligations.ConditionalJumpsTestForIntOne : Prop :=
  ∀ (s : State) (a : Byte) (target : Word), a ≠ 0xFF#8 →
    (s.cell a = .int 1 →
      exec (.tjmp a target) s = .next { s with cursor := target } ∧
      exec (.fjmp a target) s = .next (s.past 10)) ∧
    (s.cell a ≠ .int 1 →
      exec (.tjmp a target) s = .next (s.past 10) ∧
      exec (.fjmp a target) s = .next { s with cursor := target })

/-- R149: JMP sets the cursor to its eight-byte little-endian offset, with no check, and changes nothing else. -/
def Obligations.JmpIsAbsolute : Prop :=
  ∀ (s : State) (o : Octet) (rest : List Byte), ∃ target : Word,
    decode (0xE3#8 :: (o.toList ++ rest)) = .ok (.jmp target, rest) ∧
    target.toNat =
      o.b0.toNat + o.b1.toNat * 2 ^ 8 + o.b2.toNat * 2 ^ 16 + o.b3.toNat * 2 ^ 24 + o.b4.toNat * 2 ^ 32 +
        o.b5.toNat * 2 ^ 40 + o.b6.toNat * 2 ^ 48 + o.b7.toNat * 2 ^ 56 ∧
    exec (.jmp target) s = .next { s with cursor := target }

/-- R150, D18: VJMP sets the cursor to the Int of a cell, its two's-complement bits read as unsigned; a cell of
another tag faults TypeMismatch. -/
def Obligations.VjmpJumpsThroughACell : Prop :=
  ∀ (s : State) (a : Byte), a ≠ 0xFF#8 →
    (∀ i, s.cell a = .int i → ∃ t, exec (.vjmp a) s = .next t ∧ t = { s with cursor := t.cursor } ∧
      (t.cursor.toNat : Int) = i.toInt % 2 ^ 64) ∧
    ((∀ i, s.cell a ≠ .int i) →
      exec (.vjmp a) s = .next (s.faultedBy (.vjmp a) .typeMismatch none (.cell (s.cell a))))

/-- R113: NOP, the body byte 0x00, only moves the cursor past itself. -/
def Obligations.NopOnlyAdvances : Prop :=
  (∀ rest : List Byte, decode (0x00#8 :: rest) = .ok (.nop, rest)) ∧
  ∀ s : State, exec .nop s = .next { s with cursor := s.cursor + 1 }

/-! ### Faults and whole-machine rules -/

/-- R54, D11 (the spec's own choice): an address operand of 0xFF faults ADDRESS_OUT_OF_RANGE in every instruction
that has one, once the type tag or key byte before it is mapped. -/
def Obligations.AddressFFFaults : Prop :=
  ∀ (i : Instr) (s : State), 0xFF#8 ∈ i.addrs → leadingCodeMapped s.params i →
    exec i s = .next (s.faultedBy i .unmodelled (some .addressOutOfRange) (.byte 0xFF#8))

/-- R80, R82, R83: an unmapped colour, key or type tag byte faults with the byte, in every instruction that holds
one; PIXEL_MEM checks its addresses first (the order is the spec's own choice, D9). -/
def Obligations.UnmappedCodesFault : Prop :=
  ∀ (s : State) (b : Byte),
    (paramColor s.params b = none →
      (∀ x y, exec (.pixelLit x y b) s =
        .next (s.faultedBy (.pixelLit x y b) .unknownColorCode none (.byte b))) ∧
      (∀ x y, x ≠ 0xFF#8 → y ≠ 0xFF#8 → exec (.pixelMem x y b) s =
        .next (s.faultedBy (.pixelMem x y b) .unknownColorCode none (.byte b))) ∧
      exec (.clear b) s = .next (s.faultedBy (.clear b) .unknownColorCode none (.byte b))) ∧
    (paramKey s.params b = none → ∀ d, exec (.key b d) s =
      .next (s.faultedBy (.key b d) .unknownKeyCode none (.byte b))) ∧
    (paramTag s.params b = none → ∀ p d,
      exec (.varSet b p d) s = .next (s.faultedBy (.varSet b p d) .unknownTypeTag none (.byte b)) ∧
      exec (.letCell b p d) s = .next (s.faultedBy (.letCell b p d) .unknownTypeTag none (.byte b)))

/-- R107, R108, R161, D7: every instruction answers a next state, and one that faults has written nothing: the
state is the one before it but for the phase and a record with the opcode byte and its offset. -/
def Obligations.FaultsArePrecise : Prop :=
  ∀ (i : Instr) (s : State), ∃ t, exec i s = .next t ∧
    (t.phase = s.phase ∧ t.fault = s.fault ∨ ∃ kind reason value, t = s.faultedBy i kind reason value)

/-- R54, R87: an instruction that a valid program holds raises no address, key, tag or index fault, and no colour
fault unless it is SPRITE_BLIT, whose colours stand in cells. -/
def Obligations.WellFormedInstructionsFaultOnDataOnly : Prop :=
  ∀ (i : Instr) (s : State) (kind : FaultKind) (reason : Option UnmodelledReason) (value : FaultValue),
    i.wellFormed s.params = true → exec i s = .next (s.faultedBy i kind reason value) → s.phase ≠ .faulted →
    (kind = .typeMismatch ∨ kind = .divideByZero ∨ (kind = .unmodelled ∧ reason ≠ some .addressOutOfRange) ∨
      (kind = .unknownColorCode ∧ ∃ srcs x y, i = .spriteBlit srcs x y))

/-- R26, R51: what every instruction leaves alone: the configuration, the program, the parameters, every cell but
its destination, every pixel unless it draws, the host's coming answers unless it is KEY, the log unless it is KEY or
RENDER, and the draws unless it is KEY or a float instruction. Either it completes, with the phase and the fault
record as before and, unless it jumps, the cursor past it; or it has taken a fault and nothing else has changed, the
cursor included. -/
def Obligations.InstructionFrame : Prop :=
  ∀ (i : Instr) (s t : State), exec i s = .next t →
    t.cfg = s.cfg ∧ t.prog = s.prog ∧ t.hdrLen = s.hdrLen ∧ t.params = s.params ∧
    (∀ a, destCell i ≠ some a → t.cell a = s.cell a) ∧
    (drawsPixels i = false → t.fb = s.fb) ∧
    ((∀ k d, i ≠ .key k d) → t.answers = s.answers ∧ (i ≠ .render → t.log = s.log)) ∧
    (takesDraw i = false → t.draws = s.draws) ∧
    (t.phase = s.phase ∧ t.fault = s.fault ∧ (isJump i = false → t.cursor = s.cursor + BitVec.ofNat 64 i.length) ∨
      ∃ kind reason value, t = s.faultedBy i kind reason value)

/-- R32: no step makes a cell Empty that held something. -/
def Obligations.CellsNeverBecomeEmpty : Prop :=
  ∀ (s t : State) (a : Byte), step s = .next t → s.cell a ≠ .empty → t.cell a ≠ .empty

/-- R34, R117: an instruction that is no CLEAR makes no pixel Transparent. -/
def Obligations.OnlyClearMakesPixelsTransparent : Prop :=
  ∀ (i : Instr) (s t : State) (n : Nat), (∀ b, i ≠ .clear b) → exec i s = .next t →
    t.pixel n = .transparent → s.pixel n = .transparent

/-- R116, D37 (the spec's own choice of what a run shows): the log of host calls only grows, and no step makes more
than three calls. -/
def Obligations.LogOnlyGrows : Prop :=
  ∀ s t : State, step s = .next t → ∃ calls : List HostCall, t.log = calls ++ s.log ∧ calls.length ≤ 3

/-- R97, R168, D29: outside the header step the debug flag changes nothing: two runs that differ in it differ in it
alone. -/
def Obligations.DebugFlagHasNoEffect : Prop :=
  ∀ (s : State) (b : Bool), s.phase ≠ .header → step (withDebug b s) = mapNext (withDebug b) (step s)

/-- R25: no core rule reads the log: adding older calls to it changes nothing else. -/
def Obligations.LogIsNeverRead : Prop :=
  ∀ (s : State) (l : List HostCall), step (withOlderLog l s) = mapNext (withOlderLog l) (step s)
end

