-- ==== Sys2Proof/Laws/Sparse.lean ====
section
/-! SUPPORT. Sparse arrays: a read after a write, and the canonical form that every write keeps. -/

namespace Sys2Proof.Machine

variable {α : Type} (d : Nat → α)

@[simp] theorem sparseRead_nil (a : Nat) : sparseRead d [] a = d a := rfl

theorem sparseRead_cons (k : Nat) (v : α) (rest : List (Nat × α)) (a : Nat) :
    sparseRead d ((k, v) :: rest) a = if k = a then v else sparseRead d rest a := rfl

/-- An index that the list does not hold reads as the default. -/
theorem sparseRead_of_notMem {l : List (Nat × α)} {a : Nat} (h : ∀ e ∈ l, e.1 ≠ a) :
    sparseRead d l a = d a := by
  induction l with
  | nil => rfl
  | cons e rest ih =>
    obtain ⟨k, v⟩ := e
    have hk : k ≠ a := h (k, v) (by simp)
    rw [sparseRead_cons, if_neg hk]
    exact ih fun e he => h e (by simp [he])

theorem sparseRead_insert_same (l : List (Nat × α)) (a : Nat) (v : α) :
    sparseRead d (sparseInsert l a v) a = v := by
  induction l with
  | nil => simp [sparseInsert, sparseRead_cons]
  | cons e rest ih =>
    obtain ⟨k, w⟩ := e
    simp only [sparseInsert]
    split
    · simp [sparseRead_cons]
    · split
      · simp [sparseRead_cons]
      · rename_i hk
        simp [sparseRead_cons, Ne.symm hk, ih]

theorem sparseRead_insert_other (l : List (Nat × α)) {a b : Nat} (v : α) (hab : b ≠ a) :
    sparseRead d (sparseInsert l a v) b = sparseRead d l b := by
  induction l with
  | nil => simp [sparseInsert, sparseRead_cons, Ne.symm hab]
  | cons e rest ih =>
    obtain ⟨k, w⟩ := e
    simp only [sparseInsert]
    split
    · simp [sparseRead_cons, Ne.symm hab]
    · split
      · rename_i hk
        subst hk
        simp [sparseRead_cons, Ne.symm hab]
      · simp [sparseRead_cons, ih]

theorem sparseRead_erase_other (l : List (Nat × α)) {a b : Nat} (hab : b ≠ a) :
    sparseRead d (sparseErase l a) b = sparseRead d l b := by
  induction l with
  | nil => rfl
  | cons e rest ih =>
    obtain ⟨k, w⟩ := e
    simp only [sparseErase]
    split
    · rename_i hk
      subst hk
      simp [sparseRead_cons, Ne.symm hab, ih]
    · simp [sparseRead_cons, ih]

theorem sparseRead_erase_same (l : List (Nat × α)) (a : Nat) : sparseRead d (sparseErase l a) a = d a := by
  induction l with
  | nil => rfl
  | cons e rest ih =>
    obtain ⟨k, w⟩ := e
    simp only [sparseErase]
    split
    · exact ih
    · rename_i hk
      simp [sparseRead_cons, hk, ih]

/-- In a sorted list, an index below all the list's indices is not in it. -/
theorem sparseSorted_tail {k : Nat} {v : α} {rest : List (Nat × α)} (h : sparseSorted ((k, v) :: rest)) :
    (∀ e ∈ rest, k < e.1) ∧ sparseSorted rest := by
  simp only [sparseSorted, List.map_cons, List.pairwise_cons, List.mem_map] at h
  exact ⟨fun e he => h.1 e.1 ⟨e, he, rfl⟩, h.2⟩

theorem mem_sparseInsert {l : List (Nat × α)} {a : Nat} {v : α} {e : Nat × α}
    (h : e ∈ sparseInsert l a v) : e = (a, v) ∨ e ∈ l := by
  induction l with
  | nil => simpa [sparseInsert] using h
  | cons x rest ih =>
    obtain ⟨k, w⟩ := x
    simp only [sparseInsert] at h
    split at h
    · simpa using h
    · split at h
      · rcases List.mem_cons.1 h with h | h
        · exact .inl h
        · exact .inr (by simp [h])
      · rcases List.mem_cons.1 h with h | h
        · exact .inr (by simp [h])
        · rcases ih h with h | h
          · exact .inl h
          · exact .inr (by simp [h])

theorem mem_sparseErase {l : List (Nat × α)} {a : Nat} {e : Nat × α} (h : e ∈ sparseErase l a) : e ∈ l := by
  induction l with
  | nil => simp [sparseErase] at h
  | cons x rest ih =>
    obtain ⟨k, w⟩ := x
    simp only [sparseErase] at h
    split at h
    · exact List.mem_cons_of_mem _ (ih h)
    · rcases List.mem_cons.1 h with h | h
      · simp [h]
      · exact List.mem_cons_of_mem _ (ih h)

theorem sparseSorted_insert {l : List (Nat × α)} (h : sparseSorted l) (a : Nat) (v : α) :
    sparseSorted (sparseInsert l a v) := by
  induction l with
  | nil => simp [sparseInsert, sparseSorted]
  | cons x rest ih =>
    obtain ⟨k, w⟩ := x
    obtain ⟨hlt, hs⟩ := sparseSorted_tail h
    simp only [sparseInsert]
    split
    · rename_i hak
      simp only [sparseSorted, List.map_cons, List.pairwise_cons, List.mem_cons, List.mem_map]
      refine ⟨?_, ?_, hs⟩
      · rintro y (rfl | ⟨e, he, rfl⟩)
        · exact hak
        · exact hak.trans (hlt e he)
      · rintro y ⟨e, he, rfl⟩
        exact hlt e he
    · split
      · rename_i hak
        subst hak
        simp only [sparseSorted, List.map_cons, List.pairwise_cons, List.mem_map]
        exact ⟨by rintro y ⟨e, he, rfl⟩; exact hlt e he, hs⟩
      · simp only [sparseSorted, List.map_cons, List.pairwise_cons, List.mem_map]
        refine ⟨?_, ih hs⟩
        rintro y ⟨e, he, rfl⟩
        rcases mem_sparseInsert he with rfl | he
        · show k < a
          omega
        · exact hlt e he

theorem sparseSorted_erase {l : List (Nat × α)} (h : sparseSorted l) (a : Nat) :
    sparseSorted (sparseErase l a) := by
  induction l with
  | nil => exact h
  | cons x rest ih =>
    obtain ⟨k, w⟩ := x
    obtain ⟨hlt, hs⟩ := sparseSorted_tail h
    simp only [sparseErase]
    split
    · exact ih hs
    · simp only [sparseSorted, List.map_cons, List.pairwise_cons, List.mem_map]
      exact ⟨by rintro y ⟨e, he, rfl⟩; exact hlt e (mem_sparseErase he), ih hs⟩

/-- Two arrays in canonical form that read the same everywhere are the same list. -/
theorem sparseWf_ext {n : Nat} {l m : List (Nat × α)} (hl : sparseWf d n l) (hm : sparseWf d n m)
    (h : ∀ a, sparseRead d l a = sparseRead d m a) : l = m := by
  induction l generalizing m with
  | nil =>
    cases m with
    | nil => rfl
    | cons e rest =>
      obtain ⟨k, v⟩ := e
      have := h k
      simp only [sparseRead_nil, sparseRead_cons, if_true] at this
      exact absurd this.symm (hm.2.2 (k, v) (by simp))
  | cons e rest ih =>
    obtain ⟨k, v⟩ := e
    obtain ⟨hlt, hs⟩ := sparseSorted_tail hl.1
    cases m with
    | nil =>
      have := h k
      simp only [sparseRead_nil, sparseRead_cons, if_true] at this
      exact absurd this (hl.2.2 (k, v) (by simp))
    | cons e' rest' =>
      obtain ⟨k', v'⟩ := e'
      obtain ⟨hlt', hs'⟩ := sparseSorted_tail hm.1
      have hdv : v ≠ d k := hl.2.2 (k, v) (by simp)
      have hdv' : v' ≠ d k' := hm.2.2 (k', v') (by simp)
      have hkk : k = k' := by
        rcases Nat.lt_trichotomy k k' with hk | hk | hk
        · have := h k
          rw [sparseRead_cons, sparseRead_cons, if_pos rfl, if_neg hk.ne',
            sparseRead_of_notMem d fun e he => (hk.trans (hlt' e he)).ne'] at this
          exact absurd this hdv
        · exact hk
        · have := h k'
          rw [sparseRead_cons, sparseRead_cons, if_pos rfl, if_neg hk.ne',
            sparseRead_of_notMem d fun e he => (hk.trans (hlt e he)).ne'] at this
          exact absurd this.symm hdv'
      subst hkk
      have hv : v = v' := by simpa [sparseRead_cons] using h k
      subst hv
      congr 1
      refine ih ⟨hs, fun e he => hl.2.1 e (by simp [he]), fun e he => hl.2.2 e (by simp [he])⟩
        ⟨hs', fun e he => hm.2.1 e (by simp [he]), fun e he => hm.2.2 e (by simp [he])⟩ fun a => ?_
      by_cases hka : k = a
      · subst hka
        rw [sparseRead_of_notMem d fun e he => (hlt e he).ne',
          sparseRead_of_notMem d fun e he => (hlt' e he).ne']
      · have := h a
        rwa [sparseRead_cons, sparseRead_cons, if_neg hka, if_neg hka] at this

variable [DecidableEq α]

/-- A read after a write to the same index gives the value written. -/
theorem sparseRead_write_same (l : List (Nat × α)) (a : Nat) (v : α) :
    sparseRead d (sparseWrite d l a v) a = v := by
  unfold sparseWrite
  split
  · rename_i hv
    rw [sparseRead_erase_same, hv]
  · exact sparseRead_insert_same d l a v

/-- A write leaves every other index alone. -/
theorem sparseRead_write_other (l : List (Nat × α)) {a b : Nat} (v : α) (hab : b ≠ a) :
    sparseRead d (sparseWrite d l a v) b = sparseRead d l b := by
  unfold sparseWrite
  split
  · exact sparseRead_erase_other d l hab
  · exact sparseRead_insert_other d l v hab

/-- An entry of a written array is the one written or was there before. -/
theorem mem_sparseWrite {l : List (Nat × α)} {a : Nat} {v : α} {e : Nat × α}
    (h : e ∈ sparseWrite d l a v) : e = (a, v) ∨ e ∈ l := by
  unfold sparseWrite at h
  split at h
  · exact .inr (mem_sparseErase h)
  · exact mem_sparseInsert h

/-- A write at an index in range keeps the canonical form. -/
theorem sparseWf_write {n : Nat} {l : List (Nat × α)} (h : sparseWf d n l) {a : Nat} (ha : a < n) (v : α) :
    sparseWf d n (sparseWrite d l a v) := by
  obtain ⟨hs, hn, hd⟩ := h
  unfold sparseWrite
  split
  · exact ⟨sparseSorted_erase hs a, fun e he => hn e (mem_sparseErase he), fun e he => hd e (mem_sparseErase he)⟩
  · rename_i hv
    refine ⟨sparseSorted_insert hs a v, fun e he => ?_, fun e he => ?_⟩
    · rcases mem_sparseInsert he with rfl | he
      · exact ha
      · exact hn e he
    · rcases mem_sparseInsert he with rfl | he
      · exact hv
      · exact hd e he

end Sys2Proof.Machine
end

