-- ==== Sys2Proof/Laws/State.lean ====
section
/-! SUPPORT. One lemma per field per update of the state, so that no proof unfolds a record update. -/

namespace Sys2Proof.Machine

/-! ### setCell -/

@[simp] theorem State.setCell_phase (s : State) (a : Byte) (v : CellValue) :
    (s.setCell a v).phase = s.phase := rfl

@[simp] theorem State.setCell_cfg (s : State) (a : Byte) (v : CellValue) :
    (s.setCell a v).cfg = s.cfg := rfl

@[simp] theorem State.setCell_prog (s : State) (a : Byte) (v : CellValue) :
    (s.setCell a v).prog = s.prog := rfl

@[simp] theorem State.setCell_hdrLen (s : State) (a : Byte) (v : CellValue) :
    (s.setCell a v).hdrLen = s.hdrLen := rfl

@[simp] theorem State.setCell_cursor (s : State) (a : Byte) (v : CellValue) :
    (s.setCell a v).cursor = s.cursor := rfl

@[simp] theorem State.setCell_mem (s : State) (a : Byte) (v : CellValue) :
    (s.setCell a v).mem = sparseWrite (fun _ => .empty) s.mem a.toNat v := rfl

@[simp] theorem State.setCell_fb (s : State) (a : Byte) (v : CellValue) :
    (s.setCell a v).fb = s.fb := rfl

@[simp] theorem State.setCell_fault (s : State) (a : Byte) (v : CellValue) :
    (s.setCell a v).fault = s.fault := rfl

@[simp] theorem State.setCell_log (s : State) (a : Byte) (v : CellValue) :
    (s.setCell a v).log = s.log := rfl

@[simp] theorem State.setCell_params (s : State) (a : Byte) (v : CellValue) :
    (s.setCell a v).params = s.params := rfl

@[simp] theorem State.setCell_answers (s : State) (a : Byte) (v : CellValue) :
    (s.setCell a v).answers = s.answers := rfl

@[simp] theorem State.setCell_draws (s : State) (a : Byte) (v : CellValue) :
    (s.setCell a v).draws = s.draws := rfl

/-! ### setPixel -/

@[simp] theorem State.setPixel_phase (s : State) (i : Nat) (c : Color) :
    (s.setPixel i c).phase = s.phase := rfl

@[simp] theorem State.setPixel_cfg (s : State) (i : Nat) (c : Color) :
    (s.setPixel i c).cfg = s.cfg := rfl

@[simp] theorem State.setPixel_prog (s : State) (i : Nat) (c : Color) :
    (s.setPixel i c).prog = s.prog := rfl

@[simp] theorem State.setPixel_hdrLen (s : State) (i : Nat) (c : Color) :
    (s.setPixel i c).hdrLen = s.hdrLen := rfl

@[simp] theorem State.setPixel_cursor (s : State) (i : Nat) (c : Color) :
    (s.setPixel i c).cursor = s.cursor := rfl

@[simp] theorem State.setPixel_mem (s : State) (i : Nat) (c : Color) :
    (s.setPixel i c).mem = s.mem := rfl

@[simp] theorem State.setPixel_fault (s : State) (i : Nat) (c : Color) :
    (s.setPixel i c).fault = s.fault := rfl

@[simp] theorem State.setPixel_log (s : State) (i : Nat) (c : Color) :
    (s.setPixel i c).log = s.log := rfl

@[simp] theorem State.setPixel_params (s : State) (i : Nat) (c : Color) :
    (s.setPixel i c).params = s.params := rfl

@[simp] theorem State.setPixel_answers (s : State) (i : Nat) (c : Color) :
    (s.setPixel i c).answers = s.answers := rfl

@[simp] theorem State.setPixel_draws (s : State) (i : Nat) (c : Color) :
    (s.setPixel i c).draws = s.draws := rfl

/-! ### fill -/

@[simp] theorem State.fill_phase (s : State) (c : Color) :
    (s.fill c).phase = s.phase := rfl

@[simp] theorem State.fill_cfg (s : State) (c : Color) :
    (s.fill c).cfg = s.cfg := rfl

@[simp] theorem State.fill_prog (s : State) (c : Color) :
    (s.fill c).prog = s.prog := rfl

@[simp] theorem State.fill_hdrLen (s : State) (c : Color) :
    (s.fill c).hdrLen = s.hdrLen := rfl

@[simp] theorem State.fill_cursor (s : State) (c : Color) :
    (s.fill c).cursor = s.cursor := rfl

@[simp] theorem State.fill_mem (s : State) (c : Color) :
    (s.fill c).mem = s.mem := rfl

@[simp] theorem State.fill_fb (s : State) (c : Color) :
    (s.fill c).fb = ⟨.filled c, []⟩ := rfl

@[simp] theorem State.fill_fault (s : State) (c : Color) :
    (s.fill c).fault = s.fault := rfl

@[simp] theorem State.fill_log (s : State) (c : Color) :
    (s.fill c).log = s.log := rfl

@[simp] theorem State.fill_params (s : State) (c : Color) :
    (s.fill c).params = s.params := rfl

@[simp] theorem State.fill_answers (s : State) (c : Color) :
    (s.fill c).answers = s.answers := rfl

@[simp] theorem State.fill_draws (s : State) (c : Color) :
    (s.fill c).draws = s.draws := rfl

/-! ### load -/

@[simp] theorem State.load_phase (s : State) (p : List Byte) :
    (s.load p).phase = s.phase := rfl

@[simp] theorem State.load_cfg (s : State) (p : List Byte) :
    (s.load p).cfg = s.cfg := rfl

@[simp] theorem State.load_prog (s : State) (p : List Byte) :
    (s.load p).prog = p := rfl

@[simp] theorem State.load_hdrLen (s : State) (p : List Byte) :
    (s.load p).hdrLen = s.hdrLen := rfl

@[simp] theorem State.load_cursor (s : State) (p : List Byte) :
    (s.load p).cursor = s.cursor := rfl

@[simp] theorem State.load_mem (s : State) (p : List Byte) :
    (s.load p).mem = s.mem := rfl

@[simp] theorem State.load_fb (s : State) (p : List Byte) :
    (s.load p).fb = s.fb := rfl

@[simp] theorem State.load_fault (s : State) (p : List Byte) :
    (s.load p).fault = s.fault := rfl

@[simp] theorem State.load_log (s : State) (p : List Byte) :
    (s.load p).log = s.log := rfl

@[simp] theorem State.load_params (s : State) (p : List Byte) :
    (s.load p).params = s.params := rfl

@[simp] theorem State.load_answers (s : State) (p : List Byte) :
    (s.load p).answers = s.answers := rfl

@[simp] theorem State.load_draws (s : State) (p : List Byte) :
    (s.load p).draws = s.draws := rfl

/-! ### jump -/

@[simp] theorem State.jump_phase (s : State) (t : Word) :
    (s.jump t).phase = s.phase := rfl

@[simp] theorem State.jump_cfg (s : State) (t : Word) :
    (s.jump t).cfg = s.cfg := rfl

@[simp] theorem State.jump_prog (s : State) (t : Word) :
    (s.jump t).prog = s.prog := rfl

@[simp] theorem State.jump_hdrLen (s : State) (t : Word) :
    (s.jump t).hdrLen = s.hdrLen := rfl

@[simp] theorem State.jump_cursor (s : State) (t : Word) :
    (s.jump t).cursor = t := rfl

@[simp] theorem State.jump_mem (s : State) (t : Word) :
    (s.jump t).mem = s.mem := rfl

@[simp] theorem State.jump_fb (s : State) (t : Word) :
    (s.jump t).fb = s.fb := rfl

@[simp] theorem State.jump_fault (s : State) (t : Word) :
    (s.jump t).fault = s.fault := rfl

@[simp] theorem State.jump_log (s : State) (t : Word) :
    (s.jump t).log = s.log := rfl

@[simp] theorem State.jump_params (s : State) (t : Word) :
    (s.jump t).params = s.params := rfl

@[simp] theorem State.jump_answers (s : State) (t : Word) :
    (s.jump t).answers = s.answers := rfl

@[simp] theorem State.jump_draws (s : State) (t : Word) :
    (s.jump t).draws = s.draws := rfl

/-! ### advance -/

@[simp] theorem State.advance_phase (s : State) (n : Nat) :
    (s.advance n).phase = s.phase := rfl

@[simp] theorem State.advance_cfg (s : State) (n : Nat) :
    (s.advance n).cfg = s.cfg := rfl

@[simp] theorem State.advance_prog (s : State) (n : Nat) :
    (s.advance n).prog = s.prog := rfl

@[simp] theorem State.advance_hdrLen (s : State) (n : Nat) :
    (s.advance n).hdrLen = s.hdrLen := rfl

@[simp] theorem State.advance_mem (s : State) (n : Nat) :
    (s.advance n).mem = s.mem := rfl

@[simp] theorem State.advance_fb (s : State) (n : Nat) :
    (s.advance n).fb = s.fb := rfl

@[simp] theorem State.advance_fault (s : State) (n : Nat) :
    (s.advance n).fault = s.fault := rfl

@[simp] theorem State.advance_log (s : State) (n : Nat) :
    (s.advance n).log = s.log := rfl

@[simp] theorem State.advance_params (s : State) (n : Nat) :
    (s.advance n).params = s.params := rfl

@[simp] theorem State.advance_answers (s : State) (n : Nat) :
    (s.advance n).answers = s.answers := rfl

@[simp] theorem State.advance_draws (s : State) (n : Nat) :
    (s.advance n).draws = s.draws := rfl

/-! ### enter -/

@[simp] theorem State.enter_phase (s : State) (p : Phase) :
    (s.enter p).phase = p := rfl

@[simp] theorem State.enter_cfg (s : State) (p : Phase) :
    (s.enter p).cfg = s.cfg := rfl

@[simp] theorem State.enter_prog (s : State) (p : Phase) :
    (s.enter p).prog = s.prog := rfl

@[simp] theorem State.enter_hdrLen (s : State) (p : Phase) :
    (s.enter p).hdrLen = s.hdrLen := rfl

@[simp] theorem State.enter_cursor (s : State) (p : Phase) :
    (s.enter p).cursor = s.cursor := rfl

@[simp] theorem State.enter_mem (s : State) (p : Phase) :
    (s.enter p).mem = s.mem := rfl

@[simp] theorem State.enter_fb (s : State) (p : Phase) :
    (s.enter p).fb = s.fb := rfl

@[simp] theorem State.enter_fault (s : State) (p : Phase) :
    (s.enter p).fault = s.fault := rfl

@[simp] theorem State.enter_log (s : State) (p : Phase) :
    (s.enter p).log = s.log := rfl

@[simp] theorem State.enter_params (s : State) (p : Phase) :
    (s.enter p).params = s.params := rfl

@[simp] theorem State.enter_answers (s : State) (p : Phase) :
    (s.enter p).answers = s.answers := rfl

@[simp] theorem State.enter_draws (s : State) (p : Phase) :
    (s.enter p).draws = s.draws := rfl

/-! ### call -/

@[simp] theorem State.call_phase (s : State) (h : HostCall) :
    (s.call h).phase = s.phase := rfl

@[simp] theorem State.call_cfg (s : State) (h : HostCall) :
    (s.call h).cfg = s.cfg := rfl

@[simp] theorem State.call_prog (s : State) (h : HostCall) :
    (s.call h).prog = s.prog := rfl

@[simp] theorem State.call_hdrLen (s : State) (h : HostCall) :
    (s.call h).hdrLen = s.hdrLen := rfl

@[simp] theorem State.call_cursor (s : State) (h : HostCall) :
    (s.call h).cursor = s.cursor := rfl

@[simp] theorem State.call_mem (s : State) (h : HostCall) :
    (s.call h).mem = s.mem := rfl

@[simp] theorem State.call_fb (s : State) (h : HostCall) :
    (s.call h).fb = s.fb := rfl

@[simp] theorem State.call_fault (s : State) (h : HostCall) :
    (s.call h).fault = s.fault := rfl

@[simp] theorem State.call_log (s : State) (h : HostCall) :
    (s.call h).log = h :: s.log := rfl

@[simp] theorem State.call_params (s : State) (h : HostCall) :
    (s.call h).params = s.params := rfl

@[simp] theorem State.call_answers (s : State) (h : HostCall) :
    (s.call h).answers = s.answers := rfl

@[simp] theorem State.call_draws (s : State) (h : HostCall) :
    (s.call h).draws = s.draws := rfl

/-! ### takeFault -/

@[simp] theorem State.takeFault_phase (s : State) (r : Raised) (w : FaultSite) (n : Nat) (op : Option Byte) :
    (s.takeFault r w n op).phase = .faulted := rfl

@[simp] theorem State.takeFault_cfg (s : State) (r : Raised) (w : FaultSite) (n : Nat) (op : Option Byte) :
    (s.takeFault r w n op).cfg = s.cfg := rfl

@[simp] theorem State.takeFault_prog (s : State) (r : Raised) (w : FaultSite) (n : Nat) (op : Option Byte) :
    (s.takeFault r w n op).prog = s.prog := rfl

@[simp] theorem State.takeFault_hdrLen (s : State) (r : Raised) (w : FaultSite) (n : Nat) (op : Option Byte) :
    (s.takeFault r w n op).hdrLen = s.hdrLen := rfl

@[simp] theorem State.takeFault_cursor (s : State) (r : Raised) (w : FaultSite) (n : Nat) (op : Option Byte) :
    (s.takeFault r w n op).cursor = s.cursor := rfl

@[simp] theorem State.takeFault_mem (s : State) (r : Raised) (w : FaultSite) (n : Nat) (op : Option Byte) :
    (s.takeFault r w n op).mem = s.mem := rfl

@[simp] theorem State.takeFault_fb (s : State) (r : Raised) (w : FaultSite) (n : Nat) (op : Option Byte) :
    (s.takeFault r w n op).fb = s.fb := rfl

@[simp] theorem State.takeFault_fault (s : State) (r : Raised) (w : FaultSite) (n : Nat) (op : Option Byte) :
    (s.takeFault r w n op).fault = some ⟨r.kind, r.reason, w, n, op, r.value⟩ := rfl

@[simp] theorem State.takeFault_log (s : State) (r : Raised) (w : FaultSite) (n : Nat) (op : Option Byte) :
    (s.takeFault r w n op).log = s.log := rfl

@[simp] theorem State.takeFault_params (s : State) (r : Raised) (w : FaultSite) (n : Nat) (op : Option Byte) :
    (s.takeFault r w n op).params = s.params := rfl

@[simp] theorem State.takeFault_answers (s : State) (r : Raised) (w : FaultSite) (n : Nat) (op : Option Byte) :
    (s.takeFault r w n op).answers = s.answers := rfl

@[simp] theorem State.takeFault_draws (s : State) (r : Raised) (w : FaultSite) (n : Nat) (op : Option Byte) :
    (s.takeFault r w n op).draws = s.draws := rfl

/-! ### takeBodyFault -/

@[simp] theorem State.takeBodyFault_phase (s : State) (op : Byte) (r : Raised) :
    (s.takeBodyFault op r).phase = .faulted := rfl

@[simp] theorem State.takeBodyFault_cfg (s : State) (op : Byte) (r : Raised) :
    (s.takeBodyFault op r).cfg = s.cfg := rfl

@[simp] theorem State.takeBodyFault_prog (s : State) (op : Byte) (r : Raised) :
    (s.takeBodyFault op r).prog = s.prog := rfl

@[simp] theorem State.takeBodyFault_hdrLen (s : State) (op : Byte) (r : Raised) :
    (s.takeBodyFault op r).hdrLen = s.hdrLen := rfl

@[simp] theorem State.takeBodyFault_cursor (s : State) (op : Byte) (r : Raised) :
    (s.takeBodyFault op r).cursor = s.cursor := rfl

@[simp] theorem State.takeBodyFault_mem (s : State) (op : Byte) (r : Raised) :
    (s.takeBodyFault op r).mem = s.mem := rfl

@[simp] theorem State.takeBodyFault_fb (s : State) (op : Byte) (r : Raised) :
    (s.takeBodyFault op r).fb = s.fb := rfl

@[simp] theorem State.takeBodyFault_fault (s : State) (op : Byte) (r : Raised) :
    (s.takeBodyFault op r).fault = some ⟨r.kind, r.reason, .body, s.cursor.toNat, some op, r.value⟩ := rfl

@[simp] theorem State.takeBodyFault_log (s : State) (op : Byte) (r : Raised) :
    (s.takeBodyFault op r).log = s.log := rfl

@[simp] theorem State.takeBodyFault_params (s : State) (op : Byte) (r : Raised) :
    (s.takeBodyFault op r).params = s.params := rfl

@[simp] theorem State.takeBodyFault_answers (s : State) (op : Byte) (r : Raised) :
    (s.takeBodyFault op r).answers = s.answers := rfl

@[simp] theorem State.takeBodyFault_draws (s : State) (op : Byte) (r : Raised) :
    (s.takeBodyFault op r).draws = s.draws := rfl

/-! ### takeHeaderFault -/

@[simp] theorem State.takeHeaderFault_phase (s : State) (n : Nat) (r : Raised) :
    (s.takeHeaderFault n r).phase = .faulted := rfl

@[simp] theorem State.takeHeaderFault_cfg (s : State) (n : Nat) (r : Raised) :
    (s.takeHeaderFault n r).cfg = s.cfg := rfl

@[simp] theorem State.takeHeaderFault_prog (s : State) (n : Nat) (r : Raised) :
    (s.takeHeaderFault n r).prog = s.prog := rfl

@[simp] theorem State.takeHeaderFault_hdrLen (s : State) (n : Nat) (r : Raised) :
    (s.takeHeaderFault n r).hdrLen = s.hdrLen := rfl

@[simp] theorem State.takeHeaderFault_cursor (s : State) (n : Nat) (r : Raised) :
    (s.takeHeaderFault n r).cursor = s.cursor := rfl

@[simp] theorem State.takeHeaderFault_mem (s : State) (n : Nat) (r : Raised) :
    (s.takeHeaderFault n r).mem = s.mem := rfl

@[simp] theorem State.takeHeaderFault_fb (s : State) (n : Nat) (r : Raised) :
    (s.takeHeaderFault n r).fb = s.fb := rfl

@[simp] theorem State.takeHeaderFault_fault (s : State) (n : Nat) (r : Raised) :
    (s.takeHeaderFault n r).fault = some ⟨r.kind, r.reason, .header, n, none, r.value⟩ := rfl

@[simp] theorem State.takeHeaderFault_log (s : State) (n : Nat) (r : Raised) :
    (s.takeHeaderFault n r).log = s.log := rfl

@[simp] theorem State.takeHeaderFault_params (s : State) (n : Nat) (r : Raised) :
    (s.takeHeaderFault n r).params = s.params := rfl

@[simp] theorem State.takeHeaderFault_answers (s : State) (n : Nat) (r : Raised) :
    (s.takeHeaderFault n r).answers = s.answers := rfl

@[simp] theorem State.takeHeaderFault_draws (s : State) (n : Nat) (r : Raised) :
    (s.takeHeaderFault n r).draws = s.draws := rfl

/-! ### startBody -/

@[simp] theorem State.startBody_phase (s : State) (c : HeaderConfig) (n : Nat) :
    (s.startBody c n).phase = .run := rfl

@[simp] theorem State.startBody_cfg (s : State) (c : HeaderConfig) (n : Nat) :
    (s.startBody c n).cfg = c := rfl

@[simp] theorem State.startBody_prog (s : State) (c : HeaderConfig) (n : Nat) :
    (s.startBody c n).prog = s.prog := rfl

@[simp] theorem State.startBody_hdrLen (s : State) (c : HeaderConfig) (n : Nat) :
    (s.startBody c n).hdrLen = n := rfl

@[simp] theorem State.startBody_cursor (s : State) (c : HeaderConfig) (n : Nat) :
    (s.startBody c n).cursor = 0 := rfl

@[simp] theorem State.startBody_mem (s : State) (c : HeaderConfig) (n : Nat) :
    (s.startBody c n).mem = s.mem := rfl

@[simp] theorem State.startBody_fb (s : State) (c : HeaderConfig) (n : Nat) :
    (s.startBody c n).fb = s.fb := rfl

@[simp] theorem State.startBody_fault (s : State) (c : HeaderConfig) (n : Nat) :
    (s.startBody c n).fault = s.fault := rfl

@[simp] theorem State.startBody_log (s : State) (c : HeaderConfig) (n : Nat) :
    (s.startBody c n).log = .construct c :: s.log := rfl

@[simp] theorem State.startBody_params (s : State) (c : HeaderConfig) (n : Nat) :
    (s.startBody c n).params = s.params := rfl

@[simp] theorem State.startBody_answers (s : State) (c : HeaderConfig) (n : Nat) :
    (s.startBody c n).answers = s.answers := rfl

@[simp] theorem State.startBody_draws (s : State) (c : HeaderConfig) (n : Nat) :
    (s.startBody c n).draws = s.draws := rfl

/-! ### past -/

@[simp] theorem State.past_phase (s : State) (n : Nat) :
    (s.past n).phase = s.phase := rfl

@[simp] theorem State.past_cfg (s : State) (n : Nat) :
    (s.past n).cfg = s.cfg := rfl

@[simp] theorem State.past_prog (s : State) (n : Nat) :
    (s.past n).prog = s.prog := rfl

@[simp] theorem State.past_hdrLen (s : State) (n : Nat) :
    (s.past n).hdrLen = s.hdrLen := rfl

@[simp] theorem State.past_cursor (s : State) (n : Nat) :
    (s.past n).cursor = s.cursor + BitVec.ofNat 64 n := rfl

@[simp] theorem State.past_mem (s : State) (n : Nat) :
    (s.past n).mem = s.mem := rfl

@[simp] theorem State.past_fb (s : State) (n : Nat) :
    (s.past n).fb = s.fb := rfl

@[simp] theorem State.past_fault (s : State) (n : Nat) :
    (s.past n).fault = s.fault := rfl

@[simp] theorem State.past_log (s : State) (n : Nat) :
    (s.past n).log = s.log := rfl

@[simp] theorem State.past_params (s : State) (n : Nat) :
    (s.past n).params = s.params := rfl

@[simp] theorem State.past_answers (s : State) (n : Nat) :
    (s.past n).answers = s.answers := rfl

@[simp] theorem State.past_draws (s : State) (n : Nat) :
    (s.past n).draws = s.draws := rfl

/-! ### faultedBy -/

@[simp] theorem State.faultedBy_phase (s : State) (i : Instr) (k : FaultKind) (r : Option UnmodelledReason) (v : FaultValue) :
    (s.faultedBy i k r v).phase = .faulted := rfl

@[simp] theorem State.faultedBy_cfg (s : State) (i : Instr) (k : FaultKind) (r : Option UnmodelledReason) (v : FaultValue) :
    (s.faultedBy i k r v).cfg = s.cfg := rfl

@[simp] theorem State.faultedBy_prog (s : State) (i : Instr) (k : FaultKind) (r : Option UnmodelledReason) (v : FaultValue) :
    (s.faultedBy i k r v).prog = s.prog := rfl

@[simp] theorem State.faultedBy_hdrLen (s : State) (i : Instr) (k : FaultKind) (r : Option UnmodelledReason) (v : FaultValue) :
    (s.faultedBy i k r v).hdrLen = s.hdrLen := rfl

@[simp] theorem State.faultedBy_cursor (s : State) (i : Instr) (k : FaultKind) (r : Option UnmodelledReason) (v : FaultValue) :
    (s.faultedBy i k r v).cursor = s.cursor := rfl

@[simp] theorem State.faultedBy_mem (s : State) (i : Instr) (k : FaultKind) (r : Option UnmodelledReason) (v : FaultValue) :
    (s.faultedBy i k r v).mem = s.mem := rfl

@[simp] theorem State.faultedBy_fb (s : State) (i : Instr) (k : FaultKind) (r : Option UnmodelledReason) (v : FaultValue) :
    (s.faultedBy i k r v).fb = s.fb := rfl

@[simp] theorem State.faultedBy_fault (s : State) (i : Instr) (k : FaultKind) (r : Option UnmodelledReason) (v : FaultValue) :
    (s.faultedBy i k r v).fault = some ⟨k, r, .body, s.cursor.toNat, some i.opcode, v⟩ := rfl

@[simp] theorem State.faultedBy_log (s : State) (i : Instr) (k : FaultKind) (r : Option UnmodelledReason) (v : FaultValue) :
    (s.faultedBy i k r v).log = s.log := rfl

@[simp] theorem State.faultedBy_params (s : State) (i : Instr) (k : FaultKind) (r : Option UnmodelledReason) (v : FaultValue) :
    (s.faultedBy i k r v).params = s.params := rfl

@[simp] theorem State.faultedBy_answers (s : State) (i : Instr) (k : FaultKind) (r : Option UnmodelledReason) (v : FaultValue) :
    (s.faultedBy i k r v).answers = s.answers := rfl

@[simp] theorem State.faultedBy_draws (s : State) (i : Instr) (k : FaultKind) (r : Option UnmodelledReason) (v : FaultValue) :
    (s.faultedBy i k r v).draws = s.draws := rfl

/-! ### drewNaN -/

@[simp] theorem State.drewNaN_phase (s : State) :
    s.drewNaN.phase = s.phase := rfl

@[simp] theorem State.drewNaN_cfg (s : State) :
    s.drewNaN.cfg = s.cfg := rfl

@[simp] theorem State.drewNaN_prog (s : State) :
    s.drewNaN.prog = s.prog := rfl

@[simp] theorem State.drewNaN_hdrLen (s : State) :
    s.drewNaN.hdrLen = s.hdrLen := rfl

@[simp] theorem State.drewNaN_cursor (s : State) :
    s.drewNaN.cursor = s.cursor := rfl

@[simp] theorem State.drewNaN_mem (s : State) :
    s.drewNaN.mem = s.mem := rfl

@[simp] theorem State.drewNaN_fb (s : State) :
    s.drewNaN.fb = s.fb := rfl

@[simp] theorem State.drewNaN_fault (s : State) :
    s.drewNaN.fault = s.fault := rfl

@[simp] theorem State.drewNaN_log (s : State) :
    s.drewNaN.log = s.log := rfl

@[simp] theorem State.drewNaN_params (s : State) :
    s.drewNaN.params = s.params := rfl

@[simp] theorem State.drewNaN_answers (s : State) :
    s.drewNaN.answers = s.answers := rfl

@[simp] theorem State.drewNaN_draws (s : State) :
    s.drewNaN.draws = s.draws + 1 := rfl

/-! ### answered -/

@[simp] theorem State.answered_phase (s : State) :
    s.answered.phase = s.phase := by
  unfold State.answered; split <;> rfl

@[simp] theorem State.answered_cfg (s : State) :
    s.answered.cfg = s.cfg := by
  unfold State.answered; split <;> rfl

@[simp] theorem State.answered_prog (s : State) :
    s.answered.prog = s.prog := by
  unfold State.answered; split <;> rfl

@[simp] theorem State.answered_hdrLen (s : State) :
    s.answered.hdrLen = s.hdrLen := by
  unfold State.answered; split <;> rfl

@[simp] theorem State.answered_cursor (s : State) :
    s.answered.cursor = s.cursor := by
  unfold State.answered; split <;> rfl

@[simp] theorem State.answered_mem (s : State) :
    s.answered.mem = s.mem := by
  unfold State.answered; split <;> rfl

@[simp] theorem State.answered_fb (s : State) :
    s.answered.fb = s.fb := by
  unfold State.answered; split <;> rfl

@[simp] theorem State.answered_fault (s : State) :
    s.answered.fault = s.fault := by
  unfold State.answered; split <;> rfl

@[simp] theorem State.answered_log (s : State) :
    s.answered.log = s.log := by
  unfold State.answered; split <;> rfl

@[simp] theorem State.answered_params (s : State) :
    s.answered.params = s.params := by
  unfold State.answered; split <;> rfl

/-! ### pollOpen -/

@[simp] theorem State.pollOpen_phase (s : State) :
    s.pollOpen.phase = s.phase := by
  simp [State.pollOpen]

@[simp] theorem State.pollOpen_cfg (s : State) :
    s.pollOpen.cfg = s.cfg := by
  simp [State.pollOpen]

@[simp] theorem State.pollOpen_prog (s : State) :
    s.pollOpen.prog = s.prog := by
  simp [State.pollOpen]

@[simp] theorem State.pollOpen_hdrLen (s : State) :
    s.pollOpen.hdrLen = s.hdrLen := by
  simp [State.pollOpen]

@[simp] theorem State.pollOpen_cursor (s : State) :
    s.pollOpen.cursor = s.cursor := by
  simp [State.pollOpen]

@[simp] theorem State.pollOpen_mem (s : State) :
    s.pollOpen.mem = s.mem := by
  simp [State.pollOpen]

@[simp] theorem State.pollOpen_fb (s : State) :
    s.pollOpen.fb = s.fb := by
  simp [State.pollOpen]

@[simp] theorem State.pollOpen_fault (s : State) :
    s.pollOpen.fault = s.fault := by
  simp [State.pollOpen]

@[simp] theorem State.pollOpen_log (s : State) :
    s.pollOpen.log = .isOpen s.nextAnswer :: s.log := by
  simp [State.pollOpen]

@[simp] theorem State.pollOpen_params (s : State) :
    s.pollOpen.params = s.params := by
  simp [State.pollOpen]

@[simp] theorem State.pollOpen_answers (s : State) :
    s.pollOpen.answers = s.answered.answers := by
  simp [State.pollOpen]

@[simp] theorem State.pollOpen_draws (s : State) :
    s.pollOpen.draws = s.answered.draws := by
  simp [State.pollOpen]

/-! ### pollKey -/

@[simp] theorem State.pollKey_phase (s : State) (k : Key) :
    (s.pollKey k).phase = s.phase := by
  simp [State.pollKey]

@[simp] theorem State.pollKey_cfg (s : State) (k : Key) :
    (s.pollKey k).cfg = s.cfg := by
  simp [State.pollKey]

@[simp] theorem State.pollKey_prog (s : State) (k : Key) :
    (s.pollKey k).prog = s.prog := by
  simp [State.pollKey]

@[simp] theorem State.pollKey_hdrLen (s : State) (k : Key) :
    (s.pollKey k).hdrLen = s.hdrLen := by
  simp [State.pollKey]

@[simp] theorem State.pollKey_cursor (s : State) (k : Key) :
    (s.pollKey k).cursor = s.cursor := by
  simp [State.pollKey]

@[simp] theorem State.pollKey_mem (s : State) (k : Key) :
    (s.pollKey k).mem = s.mem := by
  simp [State.pollKey]

@[simp] theorem State.pollKey_fb (s : State) (k : Key) :
    (s.pollKey k).fb = s.fb := by
  simp [State.pollKey]

@[simp] theorem State.pollKey_fault (s : State) (k : Key) :
    (s.pollKey k).fault = s.fault := by
  simp [State.pollKey]

@[simp] theorem State.pollKey_log (s : State) (k : Key) :
    (s.pollKey k).log = .isKeyPressed k s.nextAnswer :: s.log := by
  simp [State.pollKey]

@[simp] theorem State.pollKey_params (s : State) (k : Key) :
    (s.pollKey k).params = s.params := by
  simp [State.pollKey]

@[simp] theorem State.pollKey_answers (s : State) (k : Key) :
    (s.pollKey k).answers = s.answered.answers := by
  simp [State.pollKey]

@[simp] theorem State.pollKey_draws (s : State) (k : Key) :
    (s.pollKey k).draws = s.answered.draws := by
  simp [State.pollKey]

/-! ### setFloat -/

@[simp] theorem State.setFloat_phase (s : State) (a : Byte) (r : Option Word) :
    (s.setFloat a r).phase = s.phase := by
  cases r <;> rfl

@[simp] theorem State.setFloat_cfg (s : State) (a : Byte) (r : Option Word) :
    (s.setFloat a r).cfg = s.cfg := by
  cases r <;> rfl

@[simp] theorem State.setFloat_prog (s : State) (a : Byte) (r : Option Word) :
    (s.setFloat a r).prog = s.prog := by
  cases r <;> rfl

@[simp] theorem State.setFloat_hdrLen (s : State) (a : Byte) (r : Option Word) :
    (s.setFloat a r).hdrLen = s.hdrLen := by
  cases r <;> rfl

@[simp] theorem State.setFloat_cursor (s : State) (a : Byte) (r : Option Word) :
    (s.setFloat a r).cursor = s.cursor := by
  cases r <;> rfl

@[simp] theorem State.setFloat_fb (s : State) (a : Byte) (r : Option Word) :
    (s.setFloat a r).fb = s.fb := by
  cases r <;> rfl

@[simp] theorem State.setFloat_fault (s : State) (a : Byte) (r : Option Word) :
    (s.setFloat a r).fault = s.fault := by
  cases r <;> rfl

@[simp] theorem State.setFloat_log (s : State) (a : Byte) (r : Option Word) :
    (s.setFloat a r).log = s.log := by
  cases r <;> rfl

@[simp] theorem State.setFloat_params (s : State) (a : Byte) (r : Option Word) :
    (s.setFloat a r).params = s.params := by
  cases r <;> rfl

@[simp] theorem State.setFloat_answers (s : State) (a : Byte) (r : Option Word) :
    (s.setFloat a r).answers = s.answers := by
  cases r <;> rfl

/-! ### pump -/

@[simp] theorem State.pump_phase (s : State) :
    s.pump.phase = s.phase := by
  unfold State.pump; split <;> rfl

@[simp] theorem State.pump_cfg (s : State) :
    s.pump.cfg = s.cfg := by
  unfold State.pump; split <;> rfl

@[simp] theorem State.pump_prog (s : State) :
    s.pump.prog = s.prog := by
  unfold State.pump; split <;> rfl

@[simp] theorem State.pump_hdrLen (s : State) :
    s.pump.hdrLen = s.hdrLen := by
  unfold State.pump; split <;> rfl

@[simp] theorem State.pump_cursor (s : State) :
    s.pump.cursor = s.cursor := by
  unfold State.pump; split <;> rfl

@[simp] theorem State.pump_mem (s : State) :
    s.pump.mem = s.mem := by
  unfold State.pump; split <;> rfl

@[simp] theorem State.pump_fb (s : State) :
    s.pump.fb = s.fb := by
  unfold State.pump; split <;> rfl

@[simp] theorem State.pump_fault (s : State) :
    s.pump.fault = s.fault := by
  unfold State.pump; split <;> rfl

@[simp] theorem State.pump_params (s : State) :
    s.pump.params = s.params := by
  unfold State.pump; split <;> rfl

@[simp] theorem State.pump_answers (s : State) :
    s.pump.answers = s.answers := by
  unfold State.pump; split <;> rfl

@[simp] theorem State.pump_draws (s : State) :
    s.pump.draws = s.draws := by
  unfold State.pump; split <;> rfl

/-! ### setPixels -/

@[simp] theorem State.setPixels_phase (s : State) (l : List (Nat × Color)) :
    (s.setPixels l).phase = s.phase := by
  induction l generalizing s with
  | nil => rfl
  | cons e l ih => simp [State.setPixels, ih]

@[simp] theorem State.setPixels_cfg (s : State) (l : List (Nat × Color)) :
    (s.setPixels l).cfg = s.cfg := by
  induction l generalizing s with
  | nil => rfl
  | cons e l ih => simp [State.setPixels, ih]

@[simp] theorem State.setPixels_prog (s : State) (l : List (Nat × Color)) :
    (s.setPixels l).prog = s.prog := by
  induction l generalizing s with
  | nil => rfl
  | cons e l ih => simp [State.setPixels, ih]

@[simp] theorem State.setPixels_hdrLen (s : State) (l : List (Nat × Color)) :
    (s.setPixels l).hdrLen = s.hdrLen := by
  induction l generalizing s with
  | nil => rfl
  | cons e l ih => simp [State.setPixels, ih]

@[simp] theorem State.setPixels_cursor (s : State) (l : List (Nat × Color)) :
    (s.setPixels l).cursor = s.cursor := by
  induction l generalizing s with
  | nil => rfl
  | cons e l ih => simp [State.setPixels, ih]

@[simp] theorem State.setPixels_mem (s : State) (l : List (Nat × Color)) :
    (s.setPixels l).mem = s.mem := by
  induction l generalizing s with
  | nil => rfl
  | cons e l ih => simp [State.setPixels, ih]

@[simp] theorem State.setPixels_fault (s : State) (l : List (Nat × Color)) :
    (s.setPixels l).fault = s.fault := by
  induction l generalizing s with
  | nil => rfl
  | cons e l ih => simp [State.setPixels, ih]

@[simp] theorem State.setPixels_log (s : State) (l : List (Nat × Color)) :
    (s.setPixels l).log = s.log := by
  induction l generalizing s with
  | nil => rfl
  | cons e l ih => simp [State.setPixels, ih]

@[simp] theorem State.setPixels_params (s : State) (l : List (Nat × Color)) :
    (s.setPixels l).params = s.params := by
  induction l generalizing s with
  | nil => rfl
  | cons e l ih => simp [State.setPixels, ih]

@[simp] theorem State.setPixels_answers (s : State) (l : List (Nat × Color)) :
    (s.setPixels l).answers = s.answers := by
  induction l generalizing s with
  | nil => rfl
  | cons e l ih => simp [State.setPixels, ih]

@[simp] theorem State.setPixels_draws (s : State) (l : List (Nat × Color)) :
    (s.setPixels l).draws = s.draws := by
  induction l generalizing s with
  | nil => rfl
  | cons e l ih => simp [State.setPixels, ih]

/-! ### The state after reset (R50) -/

@[simp] theorem State.reset_phase : State.reset.phase = .header := rfl

@[simp] theorem State.reset_cfg : State.reset.cfg = HeaderConfig.default := rfl

@[simp] theorem State.reset_prog : State.reset.prog = [] := rfl

@[simp] theorem State.reset_hdrLen : State.reset.hdrLen = 0 := rfl

@[simp] theorem State.reset_cursor : State.reset.cursor = 0 := rfl

@[simp] theorem State.reset_mem : State.reset.mem = [] := rfl

@[simp] theorem State.reset_fb : State.reset.fb = ⟨.initial, []⟩ := rfl

@[simp] theorem State.reset_fault : State.reset.fault = none := rfl

@[simp] theorem State.reset_log : State.reset.log = [] := rfl

@[simp] theorem State.reset_params : State.reset.params = Config.chip.val := rfl

end Sys2Proof.Machine
end

