-- ==== Sys2Proof/Laws/Ops.lean ====
section
/-! SUPPORT. One lemma per shared operation that says what it can do, and the lemmas that every memory operation
keeps the canonical form. -/

namespace Sys2Proof.Machine

/-! ### Checks in sequence -/

@[simp] theorem checked_ok_bind {α β : Type} (x : α) (f : α → Checked β) :
    ((Except.ok x : Checked α) >>= f) = f x := rfl

@[simp] theorem checked_error_bind {α β : Type} (r : Raised) (f : α → Checked β) :
    ((Except.error r : Checked α) >>= f) = Except.error r := rfl

/-- A sequence of checks that answers a value passed its first check. -/
theorem checked_bind_eq_ok {α β : Type} {x : Checked α} {f : α → Checked β} {b : β} (h : (x >>= f) = .ok b) :
    ∃ a, x = .ok a ∧ f a = .ok b := by
  cases x with
  | ok a => exact ⟨a, rfl, h⟩
  | error r => cases h

/-! ### Cells -/

/-- A cell is read from the bank alone. -/
theorem cell_of_mem {s t : State} (h : t.mem = s.mem) (a : Byte) : t.cell a = s.cell a := by
  simp [State.cell, h]

/-- A read of a cell after a write (R57, R64). -/
@[simp] theorem setCell_cell (s : State) (a b : Byte) (v : CellValue) :
    (s.setCell a v).cell b = if b = a then v else s.cell b := by
  simp only [State.cell, State.setCell_mem]
  split
  · rename_i h
    subst h
    exact sparseRead_write_same ..
  · rename_i h
    exact sparseRead_write_other _ _ _ fun hn => h (BitVec.eq_of_toNat_eq hn)

@[simp] theorem advance_cell (s : State) (n : Nat) (a : Byte) : (s.advance n).cell a = s.cell a := rfl

@[simp] theorem past_cell (s : State) (n : Nat) (a : Byte) : (s.past n).cell a = s.cell a := rfl

@[simp] theorem past_pixel (s : State) (n i : Nat) : (s.past n).pixel i = s.pixel i := rfl

@[simp] theorem faultedBy_cell (s : State) (i : Instr) (k : FaultKind) (r : Option UnmodelledReason)
    (v : FaultValue) (a : Byte) : (s.faultedBy i k r v).cell a = s.cell a := rfl

@[simp] theorem jump_cell (s : State) (t : Word) (a : Byte) : (s.jump t).cell a = s.cell a := rfl

@[simp] theorem enter_cell (s : State) (p : Phase) (a : Byte) : (s.enter p).cell a = s.cell a := rfl

@[simp] theorem call_cell (s : State) (h : HostCall) (a : Byte) : (s.call h).cell a = s.cell a := rfl

@[simp] theorem setPixel_cell (s : State) (i : Nat) (c : Color) (a : Byte) :
    (s.setPixel i c).cell a = s.cell a := rfl

@[simp] theorem setPixels_cell (s : State) (l : List (Nat × Color)) (a : Byte) :
    (s.setPixels l).cell a = s.cell a := cell_of_mem (by simp) a

@[simp] theorem fill_cell (s : State) (c : Color) (a : Byte) : (s.fill c).cell a = s.cell a := rfl

@[simp] theorem drewNaN_cell (s : State) (a : Byte) : s.drewNaN.cell a = s.cell a := rfl

@[simp] theorem pollOpen_cell (s : State) (a : Byte) : s.pollOpen.cell a = s.cell a := cell_of_mem (by simp) a

@[simp] theorem pollKey_cell (s : State) (k : Key) (a : Byte) : (s.pollKey k).cell a = s.cell a :=
  cell_of_mem (by simp) a

@[simp] theorem takeBodyFault_cell (s : State) (op : Byte) (r : Raised) (a : Byte) :
    (s.takeBodyFault op r).cell a = s.cell a := rfl

@[simp] theorem pump_cell (s : State) (a : Byte) : s.pump.cell a = s.cell a := cell_of_mem (by simp) a

@[simp] theorem reset_cell (a : Byte) : State.reset.cell a = .empty := rfl

/-- A cell address that passes `CheckAddr` is below 255 (R52, R54). -/
theorem addr_lt {a : Byte} (h : a ≠ 0xFF#8) : a.toNat < cellCount := by
  have h1 := a.isLt
  have h2 : a.toNat ≠ 255 := fun hn => h (BitVec.eq_of_toNat_eq hn)
  unfold cellCount
  omega

theorem memory_wf_nil : Memory.wf [] := by
  simp [Memory.wf, sparseWf, sparseSorted]

/-- A cell write keeps the canonical form of the bank. -/
theorem setCell_wf {s : State} (h : Memory.wf s.mem) {a : Byte} (ha : a ≠ 0xFF#8) (v : CellValue) :
    Memory.wf (s.setCell a v).mem :=
  sparseWf_write _ h (addr_lt ha) v

/-- Two banks in canonical form whose cells agree are equal data. -/
theorem memory_ext {m n : Memory} (hm : Memory.wf m) (hn : Memory.wf n)
    (h : ∀ a, sparseRead (fun _ => CellValue.empty) m a = sparseRead (fun _ => CellValue.empty) n a) : m = n :=
  sparseWf_ext _ hm hn h

/-- A float result keeps the canonical form of the bank. -/
theorem setFloat_wf {s : State} (h : Memory.wf s.mem) {a : Byte} (ha : a ≠ 0xFF#8) (r : Option Word) :
    Memory.wf (s.setFloat a r).mem := by
  cases r with
  | none => exact setCell_wf (s := s.drewNaN) h ha _
  | some f => exact setCell_wf h ha _

/-! ### Pixels -/

/-- Pixels are read from the parameters and the frame alone. -/
theorem pixel_of_fb {s t : State} (hp : t.params = s.params) (h : t.fb = s.fb) (i : Nat) :
    t.pixel i = s.pixel i := by
  simp [State.pixel, hp, h]

/-- A read of a pixel after a write (R64). -/
@[simp] theorem setPixel_pixel (s : State) (i j : Nat) (c : Color) :
    (s.setPixel i c).pixel j = if j = i then c else s.pixel j := by
  simp only [State.pixel, framePixel, State.setPixel]
  split
  · rename_i h
    subst h
    exact sparseRead_write_same ..
  · rename_i h
    exact sparseRead_write_other _ _ _ h

@[simp] theorem fill_pixel (s : State) (c : Color) (i : Nat) : (s.fill c).pixel i = c := rfl

@[simp] theorem advance_pixel (s : State) (n i : Nat) : (s.advance n).pixel i = s.pixel i := rfl

@[simp] theorem setCell_pixel (s : State) (a : Byte) (v : CellValue) (i : Nat) :
    (s.setCell a v).pixel i = s.pixel i := rfl

/-- A pixel write inside the framebuffer keeps the canonical form of the frame. -/
theorem setPixel_wf {s : State} (h : frameWf s.params s.fb) {i : Nat} (hi : i < pixelCount s.params) (c : Color) :
    frameWf (s.setPixel i c).params (s.setPixel i c).fb :=
  sparseWf_write _ h hi c

theorem fill_wf (s : State) (c : Color) : frameWf (s.fill c).params (s.fill c).fb := by
  simp [frameWf, sparseWf, sparseSorted, State.fill]

/-- A position inside the framebuffer has its index inside it (R33). -/
theorem pixelIndex_lt {P : Params} {x y : Nat} (hx : x < fbWidth) (hy : y < P.fbHeight) :
    pixelIndex x y < pixelCount P := by
  unfold pixelIndex pixelCount
  calc x + y * fbWidth < fbWidth + y * fbWidth := by omega
    _ = fbWidth * (y + 1) := by ring
    _ ≤ fbWidth * P.fbHeight := Nat.mul_le_mul_left _ hy

/-! ### The cursor and executing -/

/-- The cursor after an instruction, as 64-bit addition. -/
theorem advance_cursor (s : State) (n : Nat) : (s.advance n).cursor = s.cursor + BitVec.ofNat 64 n := by
  apply BitVec.eq_of_toNat_eq
  simp [State.advance, BitVec.toNat_add]

theorem advance_eq_past (s : State) (n : Nat) : s.advance n = s.past n := by
  have h := advance_cursor s n
  simp only [State.advance] at h
  simp only [State.advance, State.past, h]

theorem perform_ok {s t : State} {i : Instr} {f : State → Checked State} (h : f (s.advance i.length) = .ok t) :
    s.perform i f = .next t := by
  simp [State.perform, h]

theorem perform_error {s : State} {i : Instr} {f : State → Checked State} {r : Raised}
    (h : f (s.advance i.length) = .error r) : s.perform i f = .next (s.takeBodyFault i.opcode r) := by
  simp [State.perform, h]

/-- Everything executing an instruction can do: its effect's writes, or the fault it raises and nothing else. -/
theorem perform_cases {s t : State} {i : Instr} {f : State → Checked State} (h : s.perform i f = .next t) :
    f (s.advance i.length) = .ok t ∨
      ∃ r, f (s.advance i.length) = .error r ∧ t = s.takeBodyFault i.opcode r := by
  unfold State.perform at h
  cases hf : f (s.advance i.length) with
  | ok u =>
    rw [hf] at h
    injection h with h
    exact .inl (congrArg _ h)
  | error r =>
    rw [hf] at h
    injection h with h
    exact .inr ⟨r, rfl, h.symm⟩

/-- Taking a body fault, in the terms of `Safety`. -/
theorem takeBodyFault_eq (s : State) (i : Instr) (r : Raised) :
    s.takeBodyFault i.opcode r = s.faultedBy i r.kind r.reason r.value := rfl

/-- Everything one step can do, by phase (R102). -/
theorem step_cases {s t : State} (h : step s = .next t) :
    (s.phase = .header ∧ stepHeader s = .next t) ∨
    (s.phase = .run ∧ stepRun s = .next t) ∨
    ((∃ r, s.phase = .ended r) ∧ stepEnd s = .next t) ∨
    (s.phase = .idle ∧ stepIdle s = .next t) := by
  unfold step at h
  split at h
  · exact .inl ⟨‹_›, h⟩
  · exact .inr (.inl ⟨‹_›, h⟩)
  · exact .inr (.inr (.inl ⟨⟨_, ‹_›⟩, h⟩))
  · exact .inr (.inr (.inr ⟨‹_›, h⟩))
  · cases h
  · cases h

/-- Everything a fetch-execute step can do (R103). -/
theorem stepRun_cases {s t : State} (h : stepRun s = .next t) :
    (s.nextAnswer = false ∧ t = s.pollOpen.enter (.ended .closed)) ∨
    (s.nextAnswer = true ∧ s.pollOpen.fetch = .error .noBytes ∧ t = s.pollOpen.enter (.ended .exhausted)) ∨
    (∃ op, s.nextAnswer = true ∧ s.pollOpen.fetch = .error (.unknownOpcode op) ∧
      t = s.pollOpen.takeBodyFault op (raiseKind .unknownOpcode (.byte op))) ∨
    (∃ op n, s.nextAnswer = true ∧ s.pollOpen.fetch = .error (.truncated op n) ∧
      t = s.pollOpen.takeBodyFault op (raiseKind .unexpectedEndOfProgram (.count n))) ∨
    (∃ i rest u, s.nextAnswer = true ∧ s.pollOpen.fetch = .ok (i, rest) ∧
      exec i s.pollOpen = .next u ∧ t = u.pump) := by
  unfold stepRun at h
  cases hb : s.nextAnswer with
  | false =>
    simp only [hb, Bool.false_eq_true, if_false] at h
    injection h with h
    exact .inl ⟨rfl, h.symm⟩
  | true =>
    simp only [hb, if_true] at h
    right
    split at h
    · rename_i i rest hf
      cases he : exec i s.pollOpen with
      | next u =>
        rw [he] at h
        injection h with h
        exact .inr (.inr (.inr ⟨i, rest, u, rfl, hf, he, h.symm⟩))
      | fault r => rw [he] at h; cases h
      | refused r => rw [he] at h; cases h
    · injection h with h
      exact .inl ⟨rfl, ‹_›, h.symm⟩
    · injection h with h
      exact .inr (.inl ⟨_, rfl, ‹_›, h.symm⟩)
    · injection h with h
      exact .inr (.inr (.inl ⟨_, _, rfl, ‹_›, h.symm⟩))

end Sys2Proof.Machine
end

