-- ==== Sys2Proof/Laws/Operands.lean ====
section
/-! SUPPORT. One lemma per operand form: when it answers, and what. -/

namespace Sys2Proof.Machine

theorem checkAddr_of_ne {a : Byte} (h : a ≠ 0xFF#8) : checkAddr a = .ok () := by
  simp [checkAddr, h]

@[simp] theorem checkAddr_ff :
    checkAddr 0xFF#8 = .error (raiseUnmodelled .addressOutOfRange (.byte 0xFF#8)) := rfl

/-- `CheckAddr` passes every address but 0xFF (R54). -/
theorem checkAddr_eq_ok {a : Byte} {u : Unit} : checkAddr a = .ok u ↔ a ≠ 0xFF#8 := by
  constructor
  · rintro h rfl
    simp at h
  · exact checkAddr_of_ne

/-- All addresses pass, or the first 0xFF faults. -/
theorem checkAddrs_eq (l : List Byte) :
    checkAddrs l =
      if 0xFF#8 ∈ l then .error (raiseUnmodelled .addressOutOfRange (.byte 0xFF#8)) else .ok () := by
  induction l with
  | nil => rfl
  | cons a rest ih =>
    by_cases h : a = 0xFF#8
    · subst h
      simp [checkAddrs]
    · simp [checkAddrs, checkAddr_of_ne h, ih, Ne.symm h]

theorem checkAddrs_of_notMem {l : List Byte} (h : 0xFF#8 ∉ l) : checkAddrs l = .ok () := by
  simp [checkAddrs_eq, h]

theorem readInt_eq_ok {s : State} {a : Byte} {i : Word} : readInt s a = .ok i ↔ s.cell a = .int i := by
  unfold readInt
  cases s.cell a <;> simp

theorem readNumeric_eq_ok {s : State} {a : Byte} {v : CellValue} :
    readNumeric s a = .ok v ↔ s.cell a = v ∧ v.numeric = true := by
  unfold readNumeric
  cases s.cell a <;> cases v <;> simp [CellValue.numeric]

/-- A cell that holds no number fails the numeric read with its value (R55). -/
theorem readNumeric_eq (s : State) (a : Byte) :
    readNumeric s a =
      if (s.cell a).numeric then .ok (s.cell a) else .error (typeMismatch (s.cell a)) := by
  unfold readNumeric
  cases s.cell a <;> rfl

theorem readBytes_eq_ok {s : State} {a : Byte} {b : Octet} : readBytes s a = .ok b ↔ s.cell a = .bytes b := by
  unfold readBytes
  cases s.cell a <;> simp

theorem readArray_eq_ok {s : State} {a : Byte} {v : CellValue} :
    readArray s a = .ok v ↔ s.cell a = v ∧ ((∃ u, v = .str u) ∨ ∃ b, v = .bytes b) := by
  unfold readArray
  cases s.cell a <;> cases v <;> simp

theorem colorDecode_eq_ok {P : Params} {b : Byte} {c : Color} :
    colorDecode P b = .ok c ↔ paramColor P b = some c := by
  unfold colorDecode
  cases paramColor P b <;> simp

theorem keyDecode_eq_ok {P : Params} {b : Byte} {k : Key} : keyDecode P b = .ok k ↔ paramKey P b = some k := by
  unfold keyDecode
  cases paramKey P b <;> simp

theorem tagDecode_eq_ok {P : Params} {b : Byte} {t : Tag} : tagDecode P b = .ok t ↔ paramTag P b = some t := by
  unfold tagDecode
  cases paramTag P b <;> simp

/-- A byte that decodes to a Color has a row of the colour table. -/
theorem paramColor_mem {P : Params} {b : Byte} {c : Color} (h : paramColor P b = some c) :
    ∃ row ∈ P.colors, row.code = b ∧ row.color = c := by
  simp only [paramColor, Option.map_eq_some_iff] at h
  obtain ⟨row, hr, hc⟩ := h
  exact ⟨row, List.mem_of_find?_eq_some hr, by simpa using List.find?_some hr, hc⟩

/-- No literal is Empty (R141). -/
theorem payloadDecode_ne_empty (t : Tag) (d : Octet) : payloadDecode t d ≠ .empty := by
  cases t <;> simp [payloadDecode]

/-- A coordinate that passes is inside its range when the range is not empty (R120). -/
theorem coord_lt {v : CellValue} {n x : Nat} (hn : 0 < n) (h : coord v n = .ok x) : x < n := by
  unfold coord at h
  split at h
  · split at h
    · cases h
    · injection h with h
      exact h ▸ Nat.mod_lt _ hn
  · cases h
  · cases h
  · cases h
  · cases h

/-- The NaN draw is a NaN pattern (R126). -/
theorem nanPattern_isNaN (w : Word) : f64IsNaN (nanPattern w) = true := by
  unfold nanPattern
  split
  · assumption
  · decide

end Sys2Proof.Machine
end

