-- ==== Sys2Proof/Laws/Exec.lean ====
section
/-! SUPPORT. One equation per instruction: executing it is `perform` of its effect. A proof rewrites with the
equation and goes on with `perform_ok`, `perform_error` or `perform_cases`; it never unfolds `exec`. -/

namespace Sys2Proof.Machine

/-- Every instruction answers a next state. -/
theorem exec_next (i : Instr) (s : State) : ∃ t, exec i s = .next t := by
  cases i <;> exact ⟨_, rfl⟩

theorem exec_nop (s : State) : exec .nop s = s.perform .nop fun s => .ok s := rfl

theorem exec_pixelLit (x y b : Byte) (s : State) :
    exec (.pixelLit x y b) s = s.perform (.pixelLit x y b) (fun s => do
      let c ← colorDecode s.params b
      if c = .transparent then .ok s
      else if fbWidth ≤ x.toNat ∨ s.params.fbHeight ≤ y.toNat then .error (framebufferRange x.toNat y.toNat)
      else .ok (s.setPixel (pixelIndex x.toNat y.toNat) c)) := rfl

theorem exec_pixelMem (xa ya b : Byte) (s : State) :
    exec (.pixelMem xa ya b) s = s.perform (.pixelMem xa ya b) (fun s => do
      checkAddrs [xa, ya]
      let c ← colorDecode s.params b
      let vx ← readNumeric s xa
      let vy ← readNumeric s ya
      let x ← coord vx fbWidth
      let y ← coord vy s.params.fbHeight
      if c = .transparent then .ok s else .ok (s.setPixel (pixelIndex x y) c)) := rfl

theorem exec_spriteBlit (srcs : Octet) (xa ya : Byte) (s : State) :
    exec (.spriteBlit srcs xa ya) s = s.perform (.spriteBlit srcs xa ya) (fun s => do
      checkAddrs (srcs.toList ++ [xa, ya])
      let rows ← readRows s srcs.toList
      let ox ← readInt s xa
      let oy ← readInt s ya
      let pending ← spriteScan s.params ox.toInt oy.toInt (spriteBytes rows)
      .ok (s.setPixels pending)) := rfl

theorem exec_fdiv (l r d : Byte) (s : State) :
    exec (.fdiv l r d) s = s.perform (.fdiv l r d) (floatArith fdiv64 l r d) := rfl

theorem exec_fsub (l r d : Byte) (s : State) :
    exec (.fsub l r d) s = s.perform (.fsub l r d) (floatArith fsub64 l r d) := rfl

theorem exec_fadd (l r d : Byte) (s : State) :
    exec (.fadd l r d) s = s.perform (.fadd l r d) (floatArith fadd64 l r d) := rfl

theorem exec_fmul (l r d : Byte) (s : State) :
    exec (.fmul l r d) s = s.perform (.fmul l r d) (floatArith fmul64 l r d) := rfl

theorem exec_div (l r d : Byte) (s : State) :
    exec (.div l r d) s = s.perform (.div l r d) (fun s => do
      let (x, y) ← intOperands s l r d
      if y = 0 then .error (raiseKind .divideByZero (.ints x y))
      else
        let q ← narrow x y (Int.tdiv x y)
        .ok (s.setCell d (.int q))) := rfl

theorem exec_sub (l r d : Byte) (s : State) :
    exec (.sub l r d) s = s.perform (.sub l r d) (intArith (· - ·) l r d) := rfl

theorem exec_add (l r d : Byte) (s : State) :
    exec (.add l r d) s = s.perform (.add l r d) (intArith (· + ·) l r d) := rfl

theorem exec_mul (l r d : Byte) (s : State) :
    exec (.mul l r d) s = s.perform (.mul l r d) (intArith (· * ·) l r d) := rfl

theorem exec_notCell (a d : Byte) (s : State) :
    exec (.notCell a d) s = s.perform (.notCell a d) (fun s => do
      checkAddrs [a, d]
      .ok (s.setCell d (truth (isIntCell s a 0)))) := rfl

theorem exec_gt (l r d : Byte) (s : State) :
    exec (.gt l r d) s = s.perform (.gt l r d) (compareInto (fun x y => decide (y < x)) fgt64 l r d) := rfl

theorem exec_lt (l r d : Byte) (s : State) :
    exec (.lt l r d) s = s.perform (.lt l r d) (compareInto (fun x y => decide (x < y)) flt64 l r d) := rfl

theorem exec_varSet (t : Byte) (p : Octet) (d : Byte) (s : State) :
    exec (.varSet t p d) s = s.perform (.varSet t p d) (fun s => do
      let v ← literal t p d s
      .ok (s.setCell d v)) := rfl

theorem exec_letCell (t : Byte) (p : Octet) (d : Byte) (s : State) :
    exec (.letCell t p d) s = s.perform (.letCell t p d) (fun s => do
      let v ← literal t p d s
      if isEmptyCell s d then .ok (s.setCell d v) else .ok s) := rfl

theorem exec_arrayWrite (a i v : Byte) (s : State) :
    exec (.arrayWrite a i v) s = s.perform (.arrayWrite a i v) (fun s => do
      checkAddr a
      if 7 < i.toNat then .error (raiseKind .indexOutOfRange (.count i.toNat))
      else
        let w ← readArray s a
        .ok (s.setCell a (writeSlot w i.toNat v))) := rfl

theorem exec_tjmp (a : Byte) (o : Word) (s : State) :
    exec (.tjmp a o) s = s.perform (.tjmp a o) (fun s => do
      checkAddr a
      if isIntCell s a 1 then .ok (s.jump o) else .ok s) := rfl

theorem exec_fjmp (a : Byte) (o : Word) (s : State) :
    exec (.fjmp a o) s = s.perform (.fjmp a o) (fun s => do
      checkAddr a
      if isIntCell s a 1 then .ok s else .ok (s.jump o)) := rfl

theorem exec_jmp (o : Word) (s : State) :
    exec (.jmp o) s = s.perform (.jmp o) fun s => .ok (s.jump o) := rfl

theorem exec_vjmp (a : Byte) (s : State) :
    exec (.vjmp a) s = s.perform (.vjmp a) (fun s => do
      checkAddr a
      let i ← readInt s a
      .ok (s.jump i)) := rfl

theorem exec_key (b d : Byte) (s : State) :
    exec (.key b d) s = s.perform (.key b d) (fun s => do
      let k ← keyDecode s.params b
      checkAddr d
      .ok ((s.pollKey k).setCell d (truth s.nextAnswer))) := rfl

theorem exec_render (s : State) :
    exec .render s = s.perform .render fun s => .ok (s.call (.present s.fb)) := rfl

theorem exec_clear (b : Byte) (s : State) :
    exec (.clear b) s = s.perform (.clear b) (fun s => do
      let c ← colorDecode s.params b
      .ok (s.fill c)) := rfl

/-! ### What the shared effects can do -/

/-- Two operands that are valid and numeric are read in order (R124, R138). -/
theorem numericOperands_eq_ok {s : State} {l r d : Byte} {v : CellValue × CellValue} :
    numericOperands s l r d = .ok v ↔
      0xFF#8 ∉ [l, r, d] ∧ s.cell l = v.1 ∧ s.cell r = v.2 ∧ v.1.numeric = true ∧ v.2.numeric = true := by
  obtain ⟨vl, vr⟩ := v
  simp only [numericOperands, checkAddrs_eq, readNumeric_eq]
  split
  · simp_all
  · split
    · split
      · simp only [checked_ok_bind, Except.ok.injEq, Prod.mk.injEq]
        constructor
        · rintro ⟨rfl, rfl⟩
          simp_all
        · rintro ⟨-, h1, h2, -⟩
          exact ⟨h1, h2⟩
      · simp only [checked_ok_bind, checked_error_bind, reduceCtorEq, false_iff]
        rintro ⟨-, -, h2, -, h4⟩
        simp_all
    · simp only [checked_ok_bind, checked_error_bind, reduceCtorEq, false_iff]
      rintro ⟨-, h1, -, h3, -⟩
      simp_all

/-- Integer operands: valid addresses and two Int cells (R124). -/
theorem intOperands_eq_ok {s : State} {l r d : Byte} {v : Int × Int} :
    intOperands s l r d = .ok v ↔
      0xFF#8 ∉ [l, r, d] ∧ ∃ x y : Word, s.cell l = .int x ∧ s.cell r = .int y ∧ v = (x.toInt, y.toInt) := by
  constructor
  · intro h
    obtain ⟨⟨vl, vr⟩, h1, h2⟩ := checked_bind_eq_ok h
    obtain ⟨hm, hl, hr, -, -⟩ := numericOperands_eq_ok.1 h1
    cases vl <;> cases vr <;> simp only [reduceCtorEq, Except.ok.injEq] at h2
    exact ⟨hm, _, _, hl, hr, h2.symm⟩
  · rintro ⟨hm, x, y, hl, hr, rfl⟩
    have h : numericOperands s l r d = .ok (.int x, .int y) :=
      numericOperands_eq_ok.2 ⟨hm, hl, hr, rfl, rfl⟩
    simp [intOperands, h]

/-- Float operands: valid addresses and two Float cells (R124). -/
theorem floatOperands_eq_ok {s : State} {l r d : Byte} {v : Word × Word} :
    floatOperands s l r d = .ok v ↔
      0xFF#8 ∉ [l, r, d] ∧ s.cell l = .float v.1 ∧ s.cell r = .float v.2 := by
  constructor
  · intro h
    obtain ⟨⟨vl, vr⟩, h1, h2⟩ := checked_bind_eq_ok h
    obtain ⟨hm, hl, hr, -, -⟩ := numericOperands_eq_ok.1 h1
    cases vl <;> cases vr <;> simp only [reduceCtorEq, Except.ok.injEq] at h2
    subst h2
    exact ⟨hm, hl, hr⟩
  · rintro ⟨hm, hl, hr⟩
    have h : numericOperands s l r d = .ok (.float v.1, .float v.2) :=
      numericOperands_eq_ok.2 ⟨hm, hl, hr, rfl, rfl⟩
    simp [floatOperands, h]

/-- The integer law (R131): a result that passes is exact. -/
theorem narrow_eq_ok {l r v : Int} {w : Word} : narrow l r v = .ok w ↔ -2 ^ 63 ≤ v ∧ v < 2 ^ 63 ∧ w.toInt = v := by
  unfold narrow
  split
  · simp only [reduceCtorEq, false_iff]
    omega
  · simp only [Except.ok.injEq]
    constructor
    · rintro rfl
      refine ⟨by omega, by omega, ?_⟩
      rw [BitVec.toInt_ofInt, Int.bmod_eq_of_le] <;> omega
    · rintro ⟨h1, h2, h3⟩
      rw [← h3, BitVec.ofInt_toInt]

/-- The literal of a cell write: a mapped tag and a valid address (R141). -/
theorem literal_eq_ok {t : Byte} {p : Octet} {d : Byte} {s : State} {v : CellValue} :
    literal t p d s = .ok v ↔ d ≠ 0xFF#8 ∧ ∃ k, paramTag s.params t = some k ∧ v = payloadDecode k p := by
  constructor
  · intro h
    obtain ⟨k, hk, h⟩ := checked_bind_eq_ok h
    obtain ⟨_, ha, h⟩ := checked_bind_eq_ok h
    injection h with h
    exact ⟨checkAddr_eq_ok.1 ha, k, tagDecode_eq_ok.1 hk, h.symm⟩
  · rintro ⟨hd, k, hk, rfl⟩
    simp [literal, tagDecode_eq_ok.2 hk, checkAddr_of_ne hd]

/-- Every pixel a sprite scan answers is inside the framebuffer and opaque, with a Color of the table (R123). -/
theorem spriteScan_ok {P : Params} {ox oy : Int} {l : List SpriteByte} {px : List (Nat × Color)}
    (h : spriteScan P ox oy l = .ok px) :
    ∀ e ∈ px, e.1 < pixelCount P ∧ e.2 ≠ .transparent ∧ e.2 ∈ P.colors.map ColorRow.color := by
  induction l generalizing px with
  | nil =>
    injection h with h
    simp [← h]
  | cons b rest ih =>
    obtain ⟨c, hc, h⟩ := checked_bind_eq_ok h
    obtain ⟨row, hr, -, hrc⟩ := paramColor_mem (colorDecode_eq_ok.1 hc)
    split at h
    · exact ih h
    · rename_i hne
      dsimp only at h
      split at h
      · rename_i hs
        obtain ⟨more, hm, h⟩ := checked_bind_eq_ok h
        injection h with h
        subst h
        intro e he
        rcases List.mem_cons.1 he with rfl | he
        · have hs := of_decide_eq_true hs
          unfold fbWidth at hs
          exact ⟨pixelIndex_lt (by unfold fbWidth; omega) (by omega), hne, hrc ▸ List.mem_map_of_mem hr⟩
        · exact ih hm e he
      · cases h

/-! ### Everything an instruction can do -/

/-- What executing the instruction `i` in `s` can lead to, form by form. -/
inductive Effect (i : Instr) (s : State) : State → Prop where
  | fault (kind : FaultKind) (reason : Option UnmodelledReason) (value : FaultValue) :
    Effect i s (s.faultedBy i kind reason value)
  | past : Effect i s (s.past i.length)
  | cell (a : Byte) (v : CellValue) (hd : destCell i = some a) (ha : a ≠ 0xFF#8) (hv : v ≠ .empty) :
    Effect i s ((s.past i.length).setCell a v)
  | nan (a : Byte) (f : Word) (hd : destCell i = some a) (ht : takesDraw i = true) (ha : a ≠ 0xFF#8)
    (hf : f64IsNaN f = true) :
    Effect i s ((s.past i.length).drewNaN.setCell a (.float f))
  | key (k : Byte) (a : Byte) (key : Key) (hi : i = .key k a) (ha : a ≠ 0xFF#8) :
    Effect i s (((s.past i.length).pollKey key).setCell a (truth s.nextAnswer))
  | pixels (px : List (Nat × Color)) (hd : drawsPixels i = true)
    (hp : ∀ e ∈ px, (0 < s.params.fbHeight → e.1 < pixelCount s.params) ∧ e.2 ≠ .transparent ∧
      e.2 ∈ s.params.colors.map ColorRow.color) : Effect i s ((s.past i.length).setPixels px)
  | fill (b : Byte) (c : Color) (hi : i = .clear b) (hc : c ∈ s.params.colors.map ColorRow.color) :
    Effect i s ((s.past i.length).fill c)
  | present (hi : i = .render) : Effect i s ((s.past i.length).call (.present s.fb))
  | jump (t : Word) (hj : isJump i = true) : Effect i s (s.jump t)

theorem truth_ne_empty (b : Bool) : truth b ≠ .empty := by
  cases b <;> simp [truth]

theorem effect_floatArith {i : Instr} {s t : State} {op : Word → Word → Option Word} {l r d : Byte}
    (hd : destCell i = some d) (ht : takesDraw i = true) (h : floatArith op l r d (s.past i.length) = .ok t) :
    Effect i s t := by
  obtain ⟨⟨x, y⟩, h1, h⟩ := checked_bind_eq_ok h
  obtain ⟨hm, -, -⟩ := floatOperands_eq_ok.1 h1
  have ha : d ≠ 0xFF#8 := by
    rintro rfl
    simp at hm
  injection h with h
  subst h
  cases hr : op x y with
  | none => exact .nan d _ hd ht ha (nanPattern_isNaN _)
  | some f => exact .cell d _ hd ha (by simp)

theorem effect_intArith {i : Instr} {s t : State} {op : Int → Int → Int} {l r d : Byte}
    (hd : destCell i = some d) (h : intArith op l r d (s.past i.length) = .ok t) : Effect i s t := by
  obtain ⟨⟨x, y⟩, h1, h⟩ := checked_bind_eq_ok h
  obtain ⟨hm, -⟩ := intOperands_eq_ok.1 h1
  obtain ⟨w, -, h⟩ := checked_bind_eq_ok h
  injection h with h
  subst h
  refine .cell d _ hd ?_ (by simp)
  rintro rfl
  simp at hm

theorem effect_compareInto {i : Instr} {s t : State} {onInt : Int → Int → Bool} {onFloat : Word → Word → Bool}
    {l r d : Byte} (hd : destCell i = some d) (h : compareInto onInt onFloat l r d (s.past i.length) = .ok t) :
    Effect i s t := by
  obtain ⟨v, h1, h⟩ := checked_bind_eq_ok h
  obtain ⟨hm, -⟩ := numericOperands_eq_ok.1 h1
  obtain ⟨b, -, h⟩ := checked_bind_eq_ok h
  injection h with h
  subst h
  refine .cell d _ hd ?_ (truth_ne_empty b)
  rintro rfl
  simp at hm

/-- A colour byte that decodes is a Color of the table (R80). -/
theorem colorDecode_mem {P : Params} {b : Byte} {c : Color} (h : colorDecode P b = .ok c) :
    c ∈ P.colors.map ColorRow.color := by
  obtain ⟨row, hr, -, rfl⟩ := paramColor_mem (colorDecode_eq_ok.1 h)
  exact List.mem_map_of_mem hr

/-- Everything executing an instruction can do (R51, R108, R161). -/
theorem exec_effect {i : Instr} {s t : State} (h : exec i s = .next t) : Effect i s t := by
  have key : ∀ f : State → Checked State, s.perform i f = .next t →
      (f (s.past i.length) = .ok t → Effect i s t) → Effect i s t := by
    intro f h1 h2
    rcases perform_cases h1 with h3 | ⟨r, -, rfl⟩
    · exact h2 (advance_eq_past s _ ▸ h3)
    · exact .fault r.kind r.reason r.value
  cases i with
  | nop =>
    refine key _ ((exec_nop ..).symm.trans h) fun h => ?_
    injection h with h
    exact h ▸ .past
  | pixelLit x y b =>
    refine key _ ((exec_pixelLit ..).symm.trans h) fun h => ?_
    obtain ⟨c, hc, h⟩ := checked_bind_eq_ok h
    split at h
    · injection h with h
      exact h ▸ .past
    · split at h
      · cases h
      · rename_i hne hin
        injection h with h
        subst h
        refine .pixels [(_, c)] rfl fun e he => ?_
        rw [List.mem_singleton.1 he]
        push Not at hin
        exact ⟨fun _ => pixelIndex_lt hin.1 hin.2, hne, colorDecode_mem hc⟩
  | pixelMem xa ya b =>
    refine key _ ((exec_pixelMem ..).symm.trans h) fun h => ?_
    obtain ⟨-, -, h⟩ := checked_bind_eq_ok h
    obtain ⟨c, hc, h⟩ := checked_bind_eq_ok h
    obtain ⟨vx, -, h⟩ := checked_bind_eq_ok h
    obtain ⟨vy, -, h⟩ := checked_bind_eq_ok h
    obtain ⟨x, hx, h⟩ := checked_bind_eq_ok h
    obtain ⟨y, hy, h⟩ := checked_bind_eq_ok h
    split at h
    · injection h with h
      exact h ▸ .past
    · rename_i hne
      injection h with h
      subst h
      refine .pixels [(_, c)] rfl fun e he => ?_
      rw [List.mem_singleton.1 he]
      exact ⟨fun hp => pixelIndex_lt (coord_lt (by decide) hx) (coord_lt hp hy), hne, colorDecode_mem hc⟩
  | spriteBlit srcs xa ya =>
    refine key _ ((exec_spriteBlit ..).symm.trans h) fun h => ?_
    obtain ⟨-, -, h⟩ := checked_bind_eq_ok h
    obtain ⟨rows, -, h⟩ := checked_bind_eq_ok h
    obtain ⟨ox, -, h⟩ := checked_bind_eq_ok h
    obtain ⟨oy, -, h⟩ := checked_bind_eq_ok h
    obtain ⟨px, hp, h⟩ := checked_bind_eq_ok h
    injection h with h
    subst h
    refine .pixels px rfl fun e he => ?_
    obtain ⟨h1, h2, h3⟩ := spriteScan_ok hp e he
    exact ⟨fun _ => h1, h2, h3⟩
  | fdiv l r d => exact key _ h (effect_floatArith rfl rfl)
  | fsub l r d => exact key _ h (effect_floatArith rfl rfl)
  | fadd l r d => exact key _ h (effect_floatArith rfl rfl)
  | fmul l r d => exact key _ h (effect_floatArith rfl rfl)
  | div l r d =>
    refine key _ ((exec_div ..).symm.trans h) fun h => ?_
    obtain ⟨⟨x, y⟩, h1, h⟩ := checked_bind_eq_ok h
    obtain ⟨hm, -⟩ := intOperands_eq_ok.1 h1
    dsimp only at h
    split at h
    · cases h
    · obtain ⟨w, -, h⟩ := checked_bind_eq_ok h
      injection h with h
      subst h
      refine .cell d _ rfl ?_ (by simp)
      rintro rfl
      simp at hm
  | sub l r d => exact key _ h (effect_intArith rfl)
  | add l r d => exact key _ h (effect_intArith rfl)
  | mul l r d => exact key _ h (effect_intArith rfl)
  | notCell a d =>
    refine key _ ((exec_notCell ..).symm.trans h) fun h => ?_
    obtain ⟨_, ha, h⟩ := checked_bind_eq_ok h
    injection h with h
    subst h
    refine .cell d _ rfl ?_ (truth_ne_empty _)
    rintro rfl
    simp [checkAddrs_eq] at ha
  | gt l r d => exact key _ h (effect_compareInto rfl)
  | lt l r d => exact key _ h (effect_compareInto rfl)
  | varSet k p d =>
    refine key _ ((exec_varSet ..).symm.trans h) fun h => ?_
    obtain ⟨v, hv, h⟩ := checked_bind_eq_ok h
    obtain ⟨hd, g, -, rfl⟩ := literal_eq_ok.1 hv
    injection h with h
    exact h ▸ .cell d _ rfl hd (payloadDecode_ne_empty g p)
  | letCell k p d =>
    refine key _ ((exec_letCell ..).symm.trans h) fun h => ?_
    obtain ⟨v, hv, h⟩ := checked_bind_eq_ok h
    obtain ⟨hd, g, -, rfl⟩ := literal_eq_ok.1 hv
    split at h
    · injection h with h
      exact h ▸ .cell d _ rfl hd (payloadDecode_ne_empty g p)
    · injection h with h
      exact h ▸ .past
  | arrayWrite a i v =>
    refine key _ ((exec_arrayWrite ..).symm.trans h) fun h => ?_
    obtain ⟨_, ha, h⟩ := checked_bind_eq_ok h
    split at h
    · cases h
    · obtain ⟨w, hw, h⟩ := checked_bind_eq_ok h
      obtain ⟨-, hw⟩ := readArray_eq_ok.1 hw
      injection h with h
      subst h
      refine .cell a _ rfl (checkAddr_eq_ok.1 ha) ?_
      rcases hw with ⟨u, rfl⟩ | ⟨u, rfl⟩ <;> simp [writeSlot]
  | tjmp a o =>
    refine key _ ((exec_tjmp ..).symm.trans h) fun h => ?_
    obtain ⟨-, -, h⟩ := checked_bind_eq_ok h
    split at h <;> injection h with h
    · exact h ▸ .jump o rfl
    · exact h ▸ .past
  | fjmp a o =>
    refine key _ ((exec_fjmp ..).symm.trans h) fun h => ?_
    obtain ⟨-, -, h⟩ := checked_bind_eq_ok h
    split at h <;> injection h with h
    · exact h ▸ .past
    · exact h ▸ .jump o rfl
  | jmp o =>
    refine key _ ((exec_jmp ..).symm.trans h) fun h => ?_
    injection h with h
    exact h ▸ .jump o rfl
  | vjmp a =>
    refine key _ ((exec_vjmp ..).symm.trans h) fun h => ?_
    obtain ⟨-, -, h⟩ := checked_bind_eq_ok h
    obtain ⟨w, -, h⟩ := checked_bind_eq_ok h
    injection h with h
    exact h ▸ .jump w rfl
  | key b d =>
    refine key _ ((exec_key ..).symm.trans h) fun h => ?_
    obtain ⟨k, -, h⟩ := checked_bind_eq_ok h
    obtain ⟨_, ha, h⟩ := checked_bind_eq_ok h
    injection h with h
    exact h ▸ .key b d k rfl (checkAddr_eq_ok.1 ha)
  | render =>
    refine key _ ((exec_render ..).symm.trans h) fun h => ?_
    injection h with h
    exact h ▸ .present rfl
  | clear b =>
    refine key _ ((exec_clear ..).symm.trans h) fun h => ?_
    obtain ⟨c, hc, h⟩ := checked_bind_eq_ok h
    injection h with h
    exact h ▸ .fill b c rfl (colorDecode_mem hc)

end Sys2Proof.Machine
end

