-- ==== Sys2Proof/Laws/Float.lean ====
section
/-! SUPPORT. The small lemmas of float patterns: taking a packed pattern apart, and that every pattern is exactly one of
finite, infinite and NaN. -/

namespace Sys2Proof.Machine

/-- Every magnitude is below 2^63. -/
theorem f64Magnitude_lt (b : Word) : f64Magnitude b < 2 ^ 63 :=
  Nat.mod_lt _ (by decide)

/-- A pattern is its sign and its magnitude. -/
theorem f64_toNat (b : Word) : b.toNat = f64Magnitude b + if f64Neg b then 2 ^ 63 else 0 := by
  have h := b.isLt
  simp only [f64Magnitude, f64Neg, decide_eq_true_eq]
  split <;> omega

/-- The number a packed pattern is. -/
theorem f64Pack_toNat {neg : Bool} {m : Nat} (h : m < 2 ^ 63) :
    (f64Pack neg m).toNat = m + if neg then 2 ^ 63 else 0 := by
  simp only [f64Pack, BitVec.toNat_ofNat]
  split <;> omega

/-- The sign of a packed pattern. -/
theorem f64Pack_neg {neg : Bool} {m : Nat} (h : m < 2 ^ 63) : f64Neg (f64Pack neg m) = neg := by
  rw [f64Neg, f64Pack_toNat h]
  cases neg
  · simpa using h
  · simp

/-- The magnitude of a packed pattern. -/
theorem f64Pack_magnitude {neg : Bool} {m : Nat} (h : m < 2 ^ 63) : f64Magnitude (f64Pack neg m) = m := by
  simp only [f64Magnitude, f64Pack_toNat h]
  split <;> omega

/-- Packing a pattern's own sign and magnitude gives it back. -/
theorem f64Pack_self (b : Word) : f64Pack (f64Neg b) (f64Magnitude b) = b :=
  BitVec.eq_of_toNat_eq ((f64Pack_toNat (f64Magnitude_lt b)).trans (f64_toNat b).symm)

@[simp] theorem f64Negate_neg (b : Word) : f64Neg (f64Negate b) = !f64Neg b :=
  f64Pack_neg (f64Magnitude_lt b)

@[simp] theorem f64Negate_magnitude (b : Word) : f64Magnitude (f64Negate b) = f64Magnitude b :=
  f64Pack_magnitude (f64Magnitude_lt b)

/-- An infinity is packed from its sign. -/
theorem f64Inf_of_isInf {b : Word} (h : f64IsInf b = true) : b = f64Inf (f64Neg b) := by
  have hm : f64Magnitude b = f64InfMagnitude := of_decide_eq_true h
  exact (f64Pack_self b).symm.trans (by rw [hm, f64Inf])

/-- A finite pattern is neither a NaN nor an infinity (R126). -/
theorem f64Finite_iff (b : Word) : f64Finite b = true ↔ f64IsNaN b = false ∧ f64IsInf b = false := by
  simp only [f64Finite, f64IsNaN, f64IsInf, decide_eq_true_eq, decide_eq_false_iff_not]
  omega

/-- A pattern is a zero exactly when its significand is 0. -/
theorem f64IsZero_iff (b : Word) : f64IsZero b = true ↔ f64Significand b = 0 := by
  have h := f64Magnitude_lt b
  rw [f64IsZero, decide_eq_true_iff]
  by_cases hz : f64Exp b = 0
  · rw [f64Significand, if_pos hz]
    simp only [f64Exp, f64Frac, f64Magnitude] at *
    omega
  · rw [f64Significand, if_neg hz]
    simp only [f64Exp, f64Frac, f64Magnitude] at *
    omega

/-- Either zero stands for 0. -/
theorem f64Value_of_isZero {b : Word} (h : f64IsZero b = true) : f64Value b = 0 := by
  simp [f64Value, (f64IsZero_iff b).1 h]

end Sys2Proof.Machine
end

