-- ==== Sys2Proof/Laws/PerInstr.lean ====
section
/-! SUPPORT. A statement made for every instruction, one lemma per constructor. -/

namespace Sys2Proof.Laws.EncodedShape

/-- The encoding of an instruction starts with its opcode byte and has the length of its row (R70, R72), and no
instruction has more address operands than operand bytes. -/
def Statement (i : Instr) : Prop :=
  (encode i).head? = some i.opcode ∧ (encode i).length = i.length ∧ i.addrs.length < i.length

theorem nop : Statement .nop :=
  ⟨rfl, rfl, by simp [Instr.addrs, Instr.length]⟩

theorem pixelLit (x : Byte) (y : Byte) (c : Byte) : Statement (.pixelLit x y c) :=
  ⟨rfl, rfl, by simp [Instr.addrs, Instr.length]⟩

theorem pixelMem (x : Byte) (y : Byte) (c : Byte) : Statement (.pixelMem x y c) :=
  ⟨rfl, rfl, by simp [Instr.addrs, Instr.length]⟩

theorem spriteBlit (o : Octet) (x : Byte) (y : Byte) : Statement (.spriteBlit o x y) :=
  ⟨rfl, rfl, by simp [Instr.addrs, Instr.length, Octet.toList]⟩

theorem fdiv (l : Byte) (r : Byte) (d : Byte) : Statement (.fdiv l r d) :=
  ⟨rfl, rfl, by simp [Instr.addrs, Instr.length]⟩

theorem fsub (l : Byte) (r : Byte) (d : Byte) : Statement (.fsub l r d) :=
  ⟨rfl, rfl, by simp [Instr.addrs, Instr.length]⟩

theorem fadd (l : Byte) (r : Byte) (d : Byte) : Statement (.fadd l r d) :=
  ⟨rfl, rfl, by simp [Instr.addrs, Instr.length]⟩

theorem fmul (l : Byte) (r : Byte) (d : Byte) : Statement (.fmul l r d) :=
  ⟨rfl, rfl, by simp [Instr.addrs, Instr.length]⟩

theorem div (l : Byte) (r : Byte) (d : Byte) : Statement (.div l r d) :=
  ⟨rfl, rfl, by simp [Instr.addrs, Instr.length]⟩

theorem sub (l : Byte) (r : Byte) (d : Byte) : Statement (.sub l r d) :=
  ⟨rfl, rfl, by simp [Instr.addrs, Instr.length]⟩

theorem add (l : Byte) (r : Byte) (d : Byte) : Statement (.add l r d) :=
  ⟨rfl, rfl, by simp [Instr.addrs, Instr.length]⟩

theorem mul (l : Byte) (r : Byte) (d : Byte) : Statement (.mul l r d) :=
  ⟨rfl, rfl, by simp [Instr.addrs, Instr.length]⟩

theorem notCell (a : Byte) (d : Byte) : Statement (.notCell a d) :=
  ⟨rfl, rfl, by simp [Instr.addrs, Instr.length]⟩

theorem gt (l : Byte) (r : Byte) (d : Byte) : Statement (.gt l r d) :=
  ⟨rfl, rfl, by simp [Instr.addrs, Instr.length]⟩

theorem lt (l : Byte) (r : Byte) (d : Byte) : Statement (.lt l r d) :=
  ⟨rfl, rfl, by simp [Instr.addrs, Instr.length]⟩

theorem varSet (t : Byte) (o : Octet) (d : Byte) : Statement (.varSet t o d) :=
  ⟨rfl, rfl, by simp [Instr.addrs, Instr.length]⟩

theorem letCell (t : Byte) (o : Octet) (d : Byte) : Statement (.letCell t o d) :=
  ⟨rfl, rfl, by simp [Instr.addrs, Instr.length]⟩

theorem arrayWrite (a : Byte) (i : Byte) (v : Byte) : Statement (.arrayWrite a i v) :=
  ⟨rfl, rfl, by simp [Instr.addrs, Instr.length]⟩

theorem tjmp (a : Byte) (w : Word) : Statement (.tjmp a w) :=
  ⟨rfl, rfl, by simp [Instr.addrs, Instr.length]⟩

theorem fjmp (a : Byte) (w : Word) : Statement (.fjmp a w) :=
  ⟨rfl, rfl, by simp [Instr.addrs, Instr.length]⟩

theorem jmp (w : Word) : Statement (.jmp w) :=
  ⟨rfl, rfl, by simp [Instr.addrs, Instr.length]⟩

theorem vjmp (a : Byte) : Statement (.vjmp a) :=
  ⟨rfl, rfl, by simp [Instr.addrs, Instr.length]⟩

theorem key (k : Byte) (d : Byte) : Statement (.key k d) :=
  ⟨rfl, rfl, by simp [Instr.addrs, Instr.length]⟩

theorem render : Statement .render :=
  ⟨rfl, rfl, by simp [Instr.addrs, Instr.length]⟩

theorem clear (c : Byte) : Statement (.clear c) :=
  ⟨rfl, rfl, by simp [Instr.addrs, Instr.length]⟩

end Sys2Proof.Laws.EncodedShape
end

