-- ==== Sys2Proof/Tests/Slice0.lean ====
section
/-! SUPPORT. Tests on small states, with results taken from 95_test_vectors.md; a word of every constructor written
out from 30_encoding.md R71 and R72; and a witness for the hypotheses of every statement. -/

namespace Sys2Proof.Tests

open Sys2Proof.Machine Sys2Proof.Claims

/-! ### The example configuration EX of 95_test_vectors.md section 0 -/

/-- A colour row of EX; the colour bytes are open and here 0. -/
def exColor (code : Byte) (c : Color) : ColorRow :=
  ⟨code, c, ⟨0, 0, 0⟩⟩

def white : Color := .other 1
def red : Color := .other 2
def green : Color := .other 3

/-- EX. -/
def EX : Params where
  fbHeight := 200
  colors :=
    [exColor 0x00 .black, exColor 0x01 white, exColor 0x02 red, exColor 0x03 green, exColor 0x04 (.other 4),
     exColor 0x05 (.other 5), exColor 0x06 (.other 6), exColor 0x07 (.other 7), exColor 0x08 (.other 8)] ++
    [exColor 0x09 (.other 9), exColor 0x0A (.other 10), exColor 0x0B (.other 11), exColor 0x0C (.other 12),
     exColor 0x0D (.other 13), exColor 0x0E (.other 14), exColor 0x0F (.other 15), exColor 0x10 (.other 16),
     exColor 0x11 .transparent]
  keys :=
    [(0x01, .q), (0x02, .w), (0x03, .e), (0x04, .a), (0x05, .s), (0x06, .d), (0x07, .z), (0x08, .x), (0x09, .c)] ++
    [(0x0A, .up), (0x0B, .down), (0x0C, .left), (0x0D, .right), (0x0E, .space), (0x0F, .escape),
     (0x10, .modifier 0)]
  tags := [(0x00, .int), (0x01, .float), (0x02, .str), (0x03, .bytes)]
  spriteLayout := .rowMajor
  pixelFormat := [.red, .green, .blue, .alpha]

/-- EX with columns for rows. -/
def EXcolumns : Params :=
  { EX with spriteLayout := .columnMajor }

/-- A state in phase RUN under the parameters `P` with a body and cells; the host answers `answers`. -/
def runState (P : Params) (body : List Byte) (cells : Memory) (answers : List Bool) : State :=
  ⟨.run, HeaderConfig.default, 0x00 :: body, 1, 0, cells, ⟨.filled .black, []⟩, none, [], P, answers, 0⟩

/-- A state that has not parsed its program yet. -/
def headerState (prog : List Byte) : State :=
  ⟨.header, HeaderConfig.default, prog, 0, 0, [], ⟨.filled .black, []⟩, none, [], EX, [true], 0⟩

/-- The state after one step, or the state itself when there is none. -/
def stepped (s : State) : State :=
  match step s with
  | .next t => t
  | .fault _ => s
  | .refused _ => s

/-- One step on a body under EX with an open host. -/
def after (body : List Byte) (cells : Memory) : State :=
  stepped (runState EX body cells [true])

/-- The kind, sub-reason and value of the fault of that step, and its offset. -/
def faultOf (s : State) : Option (FaultKind × Option UnmodelledReason × FaultValue × Nat) :=
  s.fault.map fun f => (f.kind, f.reason, f.value, f.offset)

def int (i : Int) : CellValue := .int (BitVec.ofInt 64 i)

theorem test_ex_lawful : EX.Lawful ∧ EXcolumns.Lawful := by decide

theorem test_reset_memory_wf : Memory.wf State.reset.mem := by decide

theorem test_bare_lawful : Params.bare.Lawful := by decide

/-! ### Well-formedness: a well-formed term, and an ill-formed one for each check -/

theorem test_wellFormed_accepts :
    (Instr.arrayWrite 0xFE 7 0xFF).wellFormed EX = true ∧ (Instr.pixelLit 0xFF 0xFF 0x11).wellFormed EX = true ∧
    (Instr.varSet 0x03 (.splat 0xFF) 0).wellFormed EX = true ∧ (Instr.key 0x10 0).wellFormed EX = true := by decide

theorem test_wellFormed_refuses_address :
    (Instr.add 0 0 0xFF).wellFormed EX = false ∧ (Instr.spriteBlit (.splat 0xFF) 0 0).wellFormed EX = false ∧
    (Instr.vjmp 0xFF).wellFormed EX = false := by decide

theorem test_wellFormed_refuses_index : (Instr.arrayWrite 0 8 0).wellFormed EX = false := by decide

theorem test_wellFormed_refuses_codes :
    (Instr.clear 0x12).wellFormed EX = false ∧ (Instr.key 0x00 0).wellFormed EX = false ∧
    (Instr.letCell 0x04 (.splat 0) 0).wellFormed EX = false := by decide

/-! ### Decoding: a word of every constructor, written out from R71 and R72 -/

theorem test_decode_draw :
    decode [0x00] = .ok (.nop, []) ∧
    decode [0x01, 0x10, 0x11, 0x02] = .ok (.pixelLit 0x10 0x11 0x02, []) ∧
    decode [0x02, 0x10, 0x11, 0x02] = .ok (.pixelMem 0x10 0x11 0x02, []) ∧
    decode [0x03, 1, 2, 3, 4, 5, 6, 7, 8, 9, 10, 11] =
      .ok (.spriteBlit ⟨1, 2, 3, 4, 5, 6, 7, 8⟩ 9 10, [11]) := by decide

theorem test_decode_float :
    decode [0xF0, 1, 2, 3] = .ok (.fdiv 1 2 3, []) ∧ decode [0xF1, 1, 2, 3] = .ok (.fsub 1 2 3, []) ∧
    decode [0xF2, 1, 2, 3] = .ok (.fadd 1 2 3, []) ∧ decode [0xF3, 1, 2, 3] = .ok (.fmul 1 2 3, []) := by decide

theorem test_decode_int :
    decode [0xF4, 1, 2, 3] = .ok (.div 1 2 3, []) ∧ decode [0xF5, 1, 2, 3] = .ok (.sub 1 2 3, []) ∧
    decode [0xF6, 1, 2, 3] = .ok (.add 1 2 3, []) ∧ decode [0xF7, 1, 2, 3] = .ok (.mul 1 2 3, []) := by decide

theorem test_decode_logic :
    decode [0xB0, 1, 2] = .ok (.notCell 1 2, []) ∧ decode [0xB1, 1, 2, 3] = .ok (.gt 1 2 3, []) ∧
    decode [0xB2, 1, 2, 3] = .ok (.lt 1 2 3, []) := by decide

theorem test_decode_cells :
    decode [0xA1, 0x00, 1, 2, 3, 4, 5, 6, 7, 8, 9] = .ok (.varSet 0 ⟨1, 2, 3, 4, 5, 6, 7, 8⟩ 9, []) ∧
    decode [0xA2, 0x01, 1, 2, 3, 4, 5, 6, 7, 8, 9] = .ok (.letCell 1 ⟨1, 2, 3, 4, 5, 6, 7, 8⟩ 9, []) ∧
    decode [0xA3, 0x09, 0x07, 0x2A] = .ok (.arrayWrite 9 7 0x2A, []) := by decide

theorem test_decode_control :
    decode [0xE1, 0x05, 1, 2, 3, 4, 5, 6, 7, 8] = .ok (.tjmp 5 0x0807060504030201, []) ∧
    decode [0xE2, 0x05, 1, 2, 3, 4, 5, 6, 7, 8] = .ok (.fjmp 5 0x0807060504030201, []) ∧
    decode [0xE3, 1, 2, 3, 4, 5, 6, 7, 8] = .ok (.jmp 0x0807060504030201, []) ∧
    decode [0xE4, 0x07] = .ok (.vjmp 7, []) := by decide

theorem test_decode_io :
    decode [0xD0, 0x0E, 0x04] = .ok (.key 0x0E 4, []) ∧ decode [0xFB] = .ok (.render, []) ∧
    decode [0xFC, 0x11] = .ok (.clear 0x11, []) := by decide

theorem test_decode_rejects :
    decode [] = .error .noBytes ∧ decode [0xD5] = .error (.unknownOpcode 0xD5) ∧
    decode [0xE3, 0, 0] = .error (.truncated 0xE3 2) ∧ decode [0x03] = .error (.truncated 0x03 0) := by decide

theorem test_decodeTableWord :
    decodeTableWord 8 0xE3 = some (.jmp 0) ∧ decodeTableWord 32 0x030201F6 = some (.add 1 2 3) ∧
    decodeTableWord 8 0x04 = none := by decide

theorem test_encode :
    encode (.tjmp 5 0x0807060504030201) = [0xE1, 0x05, 1, 2, 3, 4, 5, 6, 7, 8] ∧
    encode (.varSet 0 ⟨1, 2, 3, 4, 5, 6, 7, 8⟩ 9) = [0xA1, 0x00, 1, 2, 3, 4, 5, 6, 7, 8, 9] := by decide

/-- A word placed after reset is what the next step runs (log 3). -/
theorem test_withFetchWord :
    ∃ t, step (State.reset.withFetchWord 8 0x00) = .next t ∧ t.cursor = 1 ∧ t.log = [.pumpEvents, .isOpen true] :=
  ⟨_, rfl, rfl, rfl⟩

/-! ### The header (95_test_vectors.md 2.1) -/

theorem test_header_title :
    (stepped (headerState [0x01, 0x48, 0x69, 0x01, 0x00])).cfg.title = [0x48, 0x69] ∧
    (stepped (headerState [0x01, 0x48, 0x69, 0x01, 0x00])).hdrLen = 5 ∧
    (stepped (headerState [0x01, 0x00, 0x01, 0x01, 0x00])).cfg.title = [0x01] ∧
    (stepped (headerState [0x01, 0x00, 0x41, 0x01, 0x00])).cfg.title = [0x41] ∧
    (stepped (headerState [0x01, 0xD5, 0x02, 0x01, 0x00])).cfg = ⟨[0xD5, 0x02], false, false, false, false⟩ := by
  decide

theorem test_header_flags :
    (stepped (headerState [0x02, 0x02, 0x04, 0xD5, 0x00])).cfg = ⟨[], true, false, true, true⟩ ∧
    (stepped (headerState [0x02, 0x02, 0x04, 0xD5, 0x00])).hdrLen = 5 ∧
    (stepped (headerState [0x00, 0xFB])).phase = .run := by decide

theorem test_header_faults :
    [[0x02, 0x03, 0x00], [0xD4, 0x00], [], [0x01, 0x41, 0x00]].map (fun p => faultOf (stepped (headerState p))) =
      [some (.notImplemented, none, .byte 0x03, 1), some (.malformedHeader, none, .byte 0xD4, 0),
       some (.malformedHeader, none, .endOfProgram, 0), some (.malformedHeader, none, .endOfProgram, 3)] := by
  decide

theorem test_header_fault_discards_writes :
    (stepped (headerState [0x02, 0x03, 0x00])).cfg = HeaderConfig.default ∧
    (stepped (headerState [0x02, 0x03, 0x00])).log = [] := by decide

/-! ### The dispatcher (95_test_vectors.md 2.2) -/

theorem test_dispatch_faults :
    faultOf (after [0x04] []) = some (.unknownOpcode, none, .byte 0x04, 0) ∧
    (after [0x04] []).log = [.isOpen true] ∧
    faultOf (after [0xE3, 0x00, 0x00] []) = some (.unexpectedEndOfProgram, none, .count 2, 0) := by decide

theorem test_dispatch_ends :
    (after [] []).phase = .ended .exhausted ∧
    (stepped (runState EX [0x04] [] [false])).phase = .ended .closed ∧
    (stepped (stepped (runState EX [0x04] [] [false]))).phase = .halted := by decide

/-! ### The instructions (95_test_vectors.md 2.3 to 2.9) -/

theorem test_nop : (after [0x00] []).cursor = 1 ∧ (after [0x00] []).log = [.pumpEvents, .isOpen true] := by decide

theorem test_pixelLit :
    (after [0x01, 0xFE, 0xC7, 0x01] []).pixel 50999 = white ∧
    (after [0x01, 0xFE, 0xC7, 0x01] []).pixel 50998 = .black ∧
    (after [0x01, 0xFF, 0x00, 0x11] []).cursor = 4 ∧ (after [0x01, 0xFF, 0x00, 0x11] []).fb.pixels = [] := by decide

theorem test_pixelLit_faults :
    faultOf (after [0x01, 0xFF, 0x00, 0x02] []) = some (.unmodelled, some .framebufferRange, .point 255 0, 0) ∧
    faultOf (after [0x01, 0x00, 0xC8, 0x02] []) = some (.unmodelled, some .framebufferRange, .point 0 200, 0) ∧
    faultOf (after [0x01, 0x00, 0x00, 0x12] []) = some (.unknownColorCode, none, .byte 0x12, 0) := by decide

theorem test_pixelMem :
    (after [0x02, 0x00, 0x01, 0x02] [(0, int 300), (1, int 0)]).pixel 45 = red ∧
    (after [0x02, 0x00, 0x01, 0x02] [(0, int 255), (1, int 201)]).pixel 255 = red ∧
    (after [0x02, 0x00, 0x00, 0x02] [(0, int 256)]).pixel 14281 = red := by decide

theorem test_pixelMem_faults :
    [faultOf (after [0x02, 0x00, 0x01, 0x02] [(0, int (-1)), (1, int 0)]),
     faultOf (after [0x02, 0x00, 0x01, 0x11] [(0, .float 0x4008000000000000), (1, int 0)]),
     faultOf (after [0x02, 0x00, 0x01, 0x12] []), faultOf (after [0x02, 0x00, 0x01, 0x02] [(1, int 0)])] =
    [some (.unmodelled, some .negativeCoordinate, .cell (int (-1)), 0),
     some (.unmodelled, some .floatCoordinate, .cell (.float 0x4008000000000000), 0),
     some (.unknownColorCode, none, .byte 0x12, 0), some (.typeMismatch, none, .cell .empty, 0)] := by decide

/-- The row D of 95_test_vectors.md: Red, six Transparent, Green. -/
def rowD : CellValue := .bytes ⟨0x02, 0x11, 0x11, 0x11, 0x11, 0x11, 0x11, 0x03⟩

def rowT : CellValue := .bytes (.splat 0x11)

def rowR : CellValue := .bytes (.splat 0x02)

/-- The body of the sprite vectors. -/
def spriteBody : List Byte :=
  [0x03, 0x00, 0x01, 0x01, 0x01, 0x01, 0x01, 0x01, 0x00, 0x02, 0x03]

def spriteCells : Memory :=
  [(0, rowD), (1, rowT), (2, int 10), (3, int 20)]

theorem test_spriteBlit :
    (after spriteBody spriteCells).fb.pixels = [(5110, red), (5117, green), (6895, red), (6902, green)] ∧
    (stepped (runState EXcolumns spriteBody spriteCells [true])).fb.pixels =
      [(5110, red), (5117, red), (6895, green), (6902, green)] := by decide +kernel

theorem test_spriteBlit_faults :
    faultOf (after [0x03, 0, 1, 1, 1, 1, 1, 1, 1, 2, 3] [(0, rowR), (1, rowT), (2, int 250), (3, int 0)]) =
      some (.unmodelled, some .framebufferRange, .point 255 0, 0) ∧
    faultOf (after spriteBody [(0, .str (.splat 0x11)), (1, rowT), (2, int 10), (3, int 20)]) =
      some (.typeMismatch, none, .cell (.str (.splat 0x11)), 0) := by decide +kernel

def f1_5 : CellValue := .float 0x3FF8000000000000
def f2_25 : CellValue := .float 0x4002000000000000
def f1 : CellValue := .float 0x3FF0000000000000
def fInf : CellValue := .float 0x7FF0000000000000
def fNegInf : CellValue := .float 0xFFF0000000000000
def fZero : CellValue := .float 0
def fNegZero : CellValue := .float 0x8000000000000000

theorem test_fadd :
    (after [0xF2, 0, 1, 2] [(0, f1_5), (1, f2_25)]).cell 2 = .float 0x400E000000000000 ∧
    (after [0xF2, 0, 1, 2] [(0, f1_5), (1, .float 0xC000000000000000)]).cell 2 = .float 0xBFE0000000000000 ∧
    (after [0xF2, 0, 1, 2] [(0, fNegZero), (1, fNegZero)]).cell 2 = fNegZero ∧
    (after [0xF2, 0, 1, 2] [(0, .float 0x7FE1CCF385EBC8A0), (1, .float 0x7FE1CCF385EBC8A0)]).cell 2 = fInf := by
  decide +kernel

theorem test_fadd_faults :
    faultOf (after [0xF2, 0, 1, 2] [(0, int 1), (1, int 2)]) =
      some (.unmodelled, some .mixedNumeric, .cells (int 1) (int 2), 0) ∧
    faultOf (after [0xF2, 0, 1, 2] [(0, f1)]) = some (.typeMismatch, none, .cell .empty, 0) ∧
    faultOf (after [0xF2, 0, 1, 0xFF] [(0, f1), (1, f1)]) =
      some (.unmodelled, some .addressOutOfRange, .byte 0xFF, 0) := by decide +kernel

theorem test_fsub :
    (after [0xF1, 0, 1, 2] [(0, f1_5), (1, f2_25)]).cell 2 = .float 0xBFE8000000000000 ∧
    (after [0xF1, 0, 1, 2] [(0, fNegZero), (1, fNegZero)]).cell 2 = fZero := by decide +kernel

theorem test_fmul :
    (after [0xF3, 0, 1, 2] [(0, f1_5), (1, f2_25)]).cell 2 = .float 0x400B000000000000 ∧
    (after [0xF3, 0, 1, 2] [(0, .float 0xBFF0000000000000), (1, fZero)]).cell 2 = fNegZero ∧
    (after [0xF3, 0, 1, 2] [(0, fInf), (1, fNegInf)]).cell 2 = fNegInf := by decide +kernel

theorem test_fdiv :
    (after [0xF0, 0, 1, 2] [(0, f1_5), (1, f2_25)]).cell 2 = .float 0x3FE5555555555555 ∧
    (after [0xF0, 0, 1, 2] [(0, f1), (1, fNegZero)]).cell 2 = fNegInf ∧
    (after [0xF0, 0, 1, 2] [(0, f1), (1, fZero)]).cell 2 = fInf := by decide +kernel

/-- A NaN result: which of the vectors of 2.4 draw one. -/
theorem test_nan_results :
    fadd64 0x7FF0000000000000 0xFFF0000000000000 = none ∧ fsub64 0x7FF0000000000000 0x7FF0000000000000 = none ∧
    fmul64 0 0x7FF0000000000000 = none ∧ fdiv64 0 0 = none ∧
    fdiv64 0x7FF0000000000000 0xFFF0000000000000 = none := by decide +kernel

theorem test_add :
    (after [0xF6, 0, 1, 2] [(0, int 2), (1, int 3)]).cell 2 = int 5 ∧
    (after [0xF6, 0, 0, 0] [(0, int 21)]).cell 0 = int 42 ∧
    (after [0xF6, 0, 1, 2] [(0, int (-2 ^ 63)), (1, int (2 ^ 63 - 1))]).cell 2 = int (-1) := by decide

theorem test_add_overflow :
    faultOf (after [0xF6, 0, 1, 2] [(0, int (2 ^ 63 - 1)), (1, int 1)]) =
      some (.unmodelled, some .integerOverflow, .ints (2 ^ 63 - 1) 1, 0) ∧
    (faultOf (after [0xF6, 0, 1, 2] [(0, int (-2 ^ 63)), (1, int (-1))])).isSome := by decide

theorem test_sub :
    (after [0xF5, 0, 1, 2] [(0, int (2 ^ 63 - 1)), (1, int 1)]).cell 2 = int (2 ^ 63 - 2) ∧
    (faultOf (after [0xF5, 0, 1, 2] [(0, int (-2 ^ 63)), (1, int 1)])).isSome := by decide

theorem test_mul :
    (after [0xF7, 0, 1, 2] [(0, int (2 ^ 32)), (1, int (-2 ^ 31))]).cell 2 = int (-2 ^ 63) ∧
    (faultOf (after [0xF7, 0, 1, 2] [(0, int (2 ^ 32)), (1, int (2 ^ 31))])).isSome := by decide +kernel

theorem test_div :
    (after [0xF4, 0, 1, 2] [(0, int (-7)), (1, int 2)]).cell 2 = int (-3) ∧
    (after [0xF4, 0, 1, 2] [(0, int 7), (1, int (-2))]).cell 2 = int (-3) ∧
    (after [0xF4, 0, 1, 2] [(0, int (-7)), (1, int (-2))]).cell 2 = int 3 ∧
    (after [0xF4, 0, 1, 2] [(0, int (-2 ^ 63)), (1, int (2 ^ 63 - 1))]).cell 2 = int (-1) := by decide +kernel

theorem test_div_faults :
    (after [0xF4, 0, 1, 2] [(0, int 5), (1, int 0)]).fault =
      some ⟨.divideByZero, none, .body, 0, some 0xF4, .ints 5 0⟩ ∧
    faultOf (after [0xF4, 0, 1, 0xFF] [(0, int 5), (1, int 0)]) =
      some (.unmodelled, some .addressOutOfRange, .byte 0xFF, 0) ∧
    faultOf (after [0xF4, 0, 1, 2] [(0, int (-2 ^ 63)), (1, int (-1))]) =
      some (.unmodelled, some .integerOverflow, .ints (-2 ^ 63) (-1), 0) := by decide +kernel

theorem test_notCell :
    (after [0xB0, 0, 1] [(0, int 0)]).cell 1 = int 1 ∧ (after [0xB0, 0, 0] [(0, int 0)]).cell 0 = int 1 ∧
    (after [0xB0, 0, 1] [(0, int (-1))]).cell 1 = int 0 ∧ (after [0xB0, 0, 1] [(0, fZero)]).cell 1 = int 0 ∧
    (after [0xB0, 0, 1] []).cell 1 = int 0 := by decide

theorem test_gt :
    (after [0xB1, 0, 1, 2] [(0, int 5), (1, int 3)]).cell 2 = int 1 ∧
    (after [0xB1, 0, 1, 2] [(0, int (-1)), (1, int 0)]).cell 2 = int 0 ∧
    (after [0xB1, 0, 1, 2] [(0, fZero), (1, fNegZero)]).cell 2 = int 0 ∧
    (after [0xB1, 0, 1, 2] [(0, .float 0x7FF8000000000000), (1, f1)]).cell 2 = int 0 := by decide +kernel

theorem test_lt :
    (after [0xB2, 0, 1, 2] [(0, int (-2 ^ 63)), (1, int (2 ^ 63 - 1))]).cell 2 = int 1 ∧
    (after [0xB2, 0, 1, 2] [(0, fNegInf), (1, fInf)]).cell 2 = int 1 ∧
    faultOf (after [0xB2, 0, 1, 2] [(0, int 1), (1, f1)]) =
      some (.unmodelled, some .mixedNumeric, .cells (int 1) f1, 0) := by decide +kernel

theorem test_varSet :
    (after [0xA1, 0x00, 0, 0, 0, 0, 0, 0, 0, 0x80, 5] [(5, .str (.splat 0x41))]).cell 5 = int (-2 ^ 63) ∧
    (after [0xA1, 0x01, 0, 0, 0, 0, 0, 0, 0xF0, 0x3F, 5] []).cell 5 = f1 ∧
    (after [0xA1, 0x02, 0x48, 0x69, 0, 0, 0, 0, 0, 0, 5] []).cell 5 = .str ⟨0x48, 0x69, 0, 0, 0, 0, 0, 0⟩ ∧
    (after [0xA1, 0x03, 1, 2, 3, 4, 5, 6, 7, 8, 5] []).cell 5 = .bytes ⟨1, 2, 3, 4, 5, 6, 7, 8⟩ := by decide

theorem test_varSet_faults :
    faultOf (after [0xA1, 0x04, 0, 0, 0, 0, 0, 0, 0, 0, 0xFF] []) = some (.unknownTypeTag, none, .byte 0x04, 0) ∧
    faultOf (after [0xA1, 0x00, 0, 0, 0, 0, 0, 0, 0, 0, 0xFF] []) =
      some (.unmodelled, some .addressOutOfRange, .byte 0xFF, 0) := by decide

theorem test_letCell :
    (after [0xA2, 0x01, 0, 0, 0, 0, 0, 0, 0x04, 0x40, 5] [(5, int 7)]).cell 5 = int 7 ∧
    (after [0xA2, 0x01, 0, 0, 0, 0, 0, 0, 0x04, 0x40, 5] [(5, int 7)]).cursor = 11 ∧
    (after [0xA2, 0x01, 0, 0, 0, 0, 0, 0, 0x04, 0x40, 5] []).cell 5 = .float 0x4004000000000000 ∧
    faultOf (after [0xA2, 0x04, 0, 0, 0, 0, 0, 0, 0, 0, 5] [(5, int 7)]) =
      some (.unknownTypeTag, none, .byte 0x04, 0) := by decide

theorem test_arrayWrite :
    (after [0xA3, 9, 0, 0x2A] [(9, .bytes (.splat 0))]).cell 9 = .bytes ⟨0x2A, 0, 0, 0, 0, 0, 0, 0⟩ ∧
    (after [0xA3, 9, 7, 0x2A] [(9, .bytes (.splat 0))]).cell 9 = .bytes ⟨0, 0, 0, 0, 0, 0, 0, 0x2A⟩ ∧
    (after [0xA3, 9, 1, 0x41] [(9, .str ⟨0x48, 0x69, 0, 0, 0, 0, 0, 0⟩)]).cell 9 =
      .str ⟨0x48, 0x41, 0, 0, 0, 0, 0, 0⟩ := by decide

theorem test_arrayWrite_faults :
    faultOf (after [0xA3, 9, 8, 0] [(9, int 1)]) = some (.indexOutOfRange, none, .count 8, 0) ∧
    faultOf (after [0xA3, 9, 0, 0] [(9, int 1)]) = some (.typeMismatch, none, .cell (int 1), 0) ∧
    faultOf (after [0xA3, 0xFF, 8, 0] []) = some (.unmodelled, some .addressOutOfRange, .byte 0xFF, 0) := by decide

theorem test_tjmp :
    (after [0xE1, 0, 0x20, 0, 0, 0, 0, 0, 0, 0] [(0, int 1)]).cursor = 32 ∧
    (after [0xE1, 0, 0x20, 0, 0, 0, 0, 0, 0, 0] [(0, int 2)]).cursor = 10 ∧
    (after [0xE1, 0, 0x20, 0, 0, 0, 0, 0, 0, 0] [(0, f1)]).cursor = 10 := by decide

theorem test_fjmp :
    (after [0xE2, 0, 0x20, 0, 0, 0, 0, 0, 0, 0] [(0, int 1)]).cursor = 10 ∧
    (after [0xE2, 0, 0x20, 0, 0, 0, 0, 0, 0, 0] [(0, int (-1))]).cursor = 32 ∧
    (after [0xE2, 0, 0x20, 0, 0, 0, 0, 0, 0, 0] []).cursor = 32 := by decide

theorem test_jmp :
    (after [0xE3, 5, 0, 0, 0, 0, 0, 0, 0] []).cursor = 5 ∧
    (after (0xE3 :: (Octet.splat 0xFF).toList) []).cursor.toNat = 2 ^ 64 - 1 := by decide

theorem test_vjmp :
    (after [0xE4, 7] [(7, int 12)]).cursor = 12 ∧
    (after [0xE4, 7] [(7, int (-1))]).cursor.toNat = 2 ^ 64 - 1 ∧
    faultOf (after [0xE4, 7] []) = some (.typeMismatch, none, .cell .empty, 0) := by decide

theorem test_key :
    (stepped (runState EX [0xD0, 0x0E, 4] [(4, .str (.splat 0))] [true, true])).cell 4 = int 1 ∧
    (stepped (runState EX [0xD0, 0x0E, 4] [(4, .str (.splat 0))] [true, false])).cell 4 = int 0 ∧
    (stepped (runState EX [0xD0, 0x0E, 4] [] [true, false])).log =
      [.pumpEvents, .isKeyPressed .space false, .isOpen true] := by decide

theorem test_key_faults :
    faultOf (after [0xD0, 0x00, 0xFF] []) = some (.unknownKeyCode, none, .byte 0x00, 0) ∧
    faultOf (after [0xD0, 0x0E, 0xFF] []) = some (.unmodelled, some .addressOutOfRange, .byte 0xFF, 0) ∧
    (after [0xD0, 0x0E, 0xFF] []).log = [.isOpen true] := by decide

theorem test_render :
    (after [0xFB] []).log = [.pumpEvents, .present ⟨.filled .black, []⟩, .isOpen true] ∧
    (after [0xFB] []).cursor = 1 := by decide

theorem test_clear :
    (after [0xFC, 0x11] []).fb = ⟨.filled .transparent, []⟩ ∧ (after [0xFC, 0x11] []).log = [.pumpEvents, .isOpen true] ∧
    faultOf (after [0xFC, 0x12] []) = some (.unknownColorCode, none, .byte 0x12, 0) := by decide

/-! ### Witnesses: a state and operands that meet the hypotheses of each statement, clause by clause -/

/-- The values at which the clauses of most statements meet: cells 0 and 1 numbers, 0xFE the last cell. -/
def cellsW : Memory :=
  [(0, int 5), (1, int 0), (2, f1), (3, rowR), (4, .str (.splat 0x11)), (254, int 1)]

/-- A state in phase RUN over those cells. -/
def stateW (body : List Byte) : State :=
  runState EX body cellsW [true]

theorem test_ex_black : Color.black ∈ EX.colors.map ColorRow.color := by decide

theorem test_witness_inv_run : (stateW [0xF6, 0, 1, 0xFE]).Inv ∧ ∃ t, step (stateW [0xF6, 0, 1, 0xFE]) = .next t :=
  ⟨⟨by decide, by decide, by decide, ⟨test_ex_black, by decide⟩, by decide, rfl, .inr (.inr (by decide))⟩, _, rfl⟩

theorem test_witness_inv_header : (headerState [0x02, 0x00]).Inv ∧ ∃ t, step (headerState [0x02, 0x00]) = .next t :=
  ⟨⟨by decide, by decide, by decide, ⟨test_ex_black, by decide⟩, by decide, rfl, .inl rfl⟩, _, rfl⟩

theorem test_witness_decoded_bytes :
    decode ([0xE3, 1, 2, 3, 4, 5, 6, 7, 8] ++ [0xFF]) = .ok (.jmp 0x0807060504030201, [0xFF]) := by decide

/-- The bounds of every range of R86, and the opcodes next to them. -/
theorem test_witness_illegal_opcodes :
    (∀ n ∈ [0x04, 0xA0, 0xA4, 0xAF, 0xB3, 0xCF, 0xD1, 0xE0, 0xE5, 0xEF, 0xF8, 0xFA, 0xFD, 0xFF],
      illegalOpcode n) ∧
    (∀ n ∈ [0x00, 0x03, 0xA1, 0xA3, 0xB0, 0xB2, 0xD0, 0xE1, 0xE4, 0xF0, 0xF7, 0xFB, 0xFC],
      ¬ illegalOpcode n) ∧
    aboutToFetch (stateW [0xFF, 0x01]) ∧ (stateW [0xFF, 0x01]).fetchBytes = [0xFF, 0x01] := by decide

theorem test_witness_truncated :
    aboutToFetch (stateW [0x03, 1, 2, 3, 4, 5, 6, 7, 8, 9]) ∧
    (stateW [0x03, 1, 2, 3, 4, 5, 6, 7, 8, 9]).fetchBytes =
      (Instr.spriteBlit (.splat 0) 0 0).opcode :: [1, 2, 3, 4, 5, 6, 7, 8, 9] ∧
    [1, 2, 3, 4, 5, 6, 7, 8, 9].length < (Instr.spriteBlit (.splat 0) 0 0).length - 1 := by decide

theorem test_witness_step_runs :
    aboutToFetch (stateW [0xF6, 0, 1, 0xFE, 0x00]) ∧
    decode (stateW [0xF6, 0, 1, 0xFE, 0x00]).fetchBytes = .ok (.add 0 1 0xFE, [0x00]) ∧
    (stepped (stateW [0xF6, 0, 1, 0xFE, 0x00])).phase = .run ∧
    (stepped (stateW [0xF6, 0, 2, 0xFE, 0x00])).phase = .faulted := by decide

/-- A cursor exactly at BODY_LEN. -/
theorem test_witness_end_of_body :
    aboutToFetch ((stateW [0x00]).jump 1) ∧
    ((stateW [0x00]).jump 1).prog.length - ((stateW [0x00]).jump 1).hdrLen ≤
      ((stateW [0x00]).jump 1).cursor.toNat := by decide

theorem test_witness_closed :
    (runState EX [0x04] [] [false]).phase = .run ∧ (runState EX [0x04] [] [false]).nextAnswer = false := by decide

/-- The state of a pass that has ended, with the three combinations of the flags that the post-loop rule tells apart. -/
def endedState (repeatPass keepOpen : Bool) : State :=
  { (stateW []).enter (.ended .exhausted) with cfg := ⟨[], repeatPass, false, keepOpen, false⟩ }

theorem test_witness_post_loop :
    (endedState true true).phase = .ended .exhausted ∧ (endedState true true).cfg.repeatPass = true ∧
    (endedState false true).cfg.repeatPass = false ∧ (endedState false true).cfg.keepOpen = true ∧
    (endedState false false).cfg.repeatPass = false ∧ (endedState false false).cfg.keepOpen = false := by decide

theorem test_witness_idle :
    ((runState EX [] [] [true]).enter .idle).nextAnswer = true ∧
    ((runState EX [] [] [false]).enter .idle).nextAnswer = false ∧
    ((runState EX [] [] [false]).enter .idle).phase = .idle := by decide

theorem test_witness_closed_repeat :
    (∀ s ∈ [{ runState EX [0x04] cellsW [false] with cfg := ⟨[], true, false, false, false⟩ }],
      s.phase = .run ∧ s.nextAnswer = false ∧ s.cfg.repeatPass = true) := by decide

theorem test_witness_stopped :
    ((stateW []).enter .halted).phase = .halted ∧ (stepped (stateW [0x04])).phase = .faulted := by decide

/-- The directives of the header witnesses: a title with a plain byte, the two bytes that must be escaped and an
ordinary byte escaped, then every flag. -/
def directivesW : List Directive :=
  [.setTitle [⟨0x48, false⟩, ⟨0x00, false⟩, ⟨0x01, true⟩, ⟨0x41, true⟩], .setRepeat, .setKeepOpen, .setDebug]

theorem test_witness_header :
    directiveBytes directivesW = [0x01, 0x48, 0x00, 0x00, 0x00, 0x01, 0x00, 0x41, 0x01, 0x02, 0x04, 0xD5] ∧
    (headerState (directiveBytes directivesW ++ 0x00 :: [0xFB])).phase = .header ∧
    (headerState (directiveBytes directivesW ++ 0x00 :: [0xFB])).prog = directiveBytes directivesW ++ 0x00 :: [0xFB] ∧
    [0xFB#8].length < 2 ^ 64 := by decide

theorem test_witness_header_faults :
    (headerState (directiveBytes directivesW ++ 0x03 :: [])).prog = directiveBytes directivesW ++ 0x03 :: [] ∧
    0x05#8 ∉ [0x00#8, 0x01#8, 0x02#8, 0x03#8, 0x04#8, 0xD5#8] ∧
    (headerState (directiveBytes directivesW ++ 0x05 :: [])).prog = directiveBytes directivesW ++ 0x05 :: [] ∧
    (headerState (directiveBytes directivesW)).prog = directiveBytes directivesW ∧
    (headerState [0x01, 0x41]).prog = directiveBytes [] ++ 0x01 :: titleBytes [⟨0x41, false⟩] ∧
    (headerState [0x01, 0x41, 0x00]).prog = directiveBytes [] ++ 0x01 :: (titleBytes [⟨0x41, false⟩] ++ [0x00]) := by decide

/-- A header step that sets every flag, a step outside the header, and a step that keeps flags set. -/
theorem test_witness_configuration :
    (∃ t, step (headerState (directiveBytes directivesW ++ [0x00])) = .next t ∧ t.cfg.repeatPass = true) ∧
    (∃ t, step (endedState true true) = .next t ∧ t.cfg.keepOpen = true) ∧ (endedState true true).phase ≠ .header ∧
    ∃ t, step ({ stateW [0x00] with cfg := ⟨[], true, true, true, true⟩ }) = .next t ∧ t.cfg.altPalette = true :=
  ⟨⟨_, rfl, rfl⟩, ⟨_, rfl, rfl⟩, by decide, _, rfl, rfl⟩

/-- The first and the last row of each table, and the byte after the last. -/
theorem test_witness_codes :
    EX.Lawful ∧ exColor 0x00 .black ∈ EX.colors ∧ exColor 0x11 .transparent ∈ EX.colors ∧
    0x12#8 ∉ EX.colors.map ColorRow.code ∧ (0x01, Key.q) ∈ EX.keys ∧ (0x10, Key.modifier 0) ∈ EX.keys ∧
    0x00#8 ∉ EX.keys.map Prod.fst ∧ (0x00, Tag.int) ∈ EX.tags ∧ (0x03, Tag.bytes) ∈ EX.tags ∧
    0x04#8 ∉ EX.tags.map Prod.fst := by decide

/-- EX with colour bytes that can be told apart for Red, and the channels in another order. -/
def EXpixels : Params :=
  { EX with
    colors := [⟨0x00, .black, ⟨0, 0, 0⟩⟩, ⟨0x02, red, ⟨0xA1, 0xB2, 0xC3⟩⟩, ⟨0x11, .transparent, ⟨0x0D, 0x0E, 0x0F⟩⟩]
    pixelFormat := [.alpha, .blue, .green, .red] }

/-- Lawful parameters, a mapped opaque and a mapped Transparent byte, and every channel at a position. -/
theorem test_witness_encoded_pixels :
    EXpixels.Lawful ∧ paramColor EXpixels 0x02 = some red ∧ paramColor EXpixels 0x11 = some .transparent ∧
    EXpixels.pixelFormat[0]? = some Channel.alpha ∧ EXpixels.pixelFormat[1]? = some Channel.blue ∧
    EXpixels.pixelFormat[2]? = some Channel.green ∧ EXpixels.pixelFormat[3]? = some Channel.red := by decide

/-- R155: the colour bytes of the row in the order of PIXEL_FORMAT, alpha always 0xFF. -/
theorem test_colorEncode :
    colorEncode EXpixels red = some [0xFF, 0xC3, 0xB2, 0xA1] ∧
    colorEncode EXpixels .transparent = some [0xFF, 0x0F, 0x0E, 0x0D] := by decide

/-- (254, 199) inside; x 255 and y 200 outside; a Transparent byte. -/
theorem test_witness_pixelLit :
    paramColor (stateW []).params 0x02 = some red ∧ red ≠ .transparent ∧ paramColor EX 0x11 = some .transparent ∧
    (0xFE#8).toNat < 255 ∧ (0xC7#8).toNat < (stateW []).params.fbHeight ∧
    (0xFF#8).toNat = 255 ∧ (stateW []).params.fbHeight ≤ (0xC8#8).toNat := by decide

/-- Coordinates 255 and 200, which wrap to 0, and 0 itself. -/
theorem test_witness_pixelMem :
    (∀ s ∈ [runState EX [] [(0, int 255), (254, int 200)] []],
      s.cell 0 = int 255 ∧ s.cell 0xFE = int 200 ∧ paramColor s.params 0x02 = some red ∧
      paramColor s.params 0x11 = some .transparent) ∧ 0 ≤ (BitVec.ofInt 64 255).toInt := by decide

/-- Cell 3 no number, cell 2 a Float, cell 0xFE the Int -1, cell 1 the Int 0. -/
theorem test_witness_pixelMem_faults :
    ∀ s ∈ [runState EX [] [(1, int 0), (2, f1), (3, rowR), (254, int (-1))] []],
      paramColor s.params 0x02 = some red ∧ (s.cell 3).numeric = false ∧ (s.cell 1).numeric = true ∧
      s.cell 2 = f1 ∧ s.cell 0xFE = int (-1) ∧ (BitVec.ofInt 64 (-1)).toInt < 0 ∧ s.cell 1 = int 0 := by decide

/-- Eight source cells of the same row, at the origin given. -/
def spriteState (row : CellValue) (x y : Int) : State :=
  runState EX [] [(0, row), (1, int x), (254, int y)] []

/-- An opaque sprite whose last pixel is the last pixel of the framebuffer, (254, 199). -/
theorem test_witness_sprite_draws :
    spriteReadable (spriteState rowR 247 192) (.splat 0) 1 0xFE (fun _ => .splat 0x02) 247 192 ∧
    ∀ k < 8, ∀ j < 8, spriteByteFine (spriteState rowR 247 192) (fun _ => .splat 0x02) 247 192 k j :=
  ⟨⟨by decide, by decide, by decide, by decide⟩, fun k hk j hj =>
    ⟨red, (by decide : ∀ j < 8, paramColor EX (slotOf (.splat 0x02) j) = some red) j hj,
      .inr ((by decide : ∀ k < 8, ∀ j < 8, inside EX (spriteAt EX 247 192 k j)) k hk j hj)⟩⟩

/-- A Transparent sprite raises no fault at any origin. -/
theorem test_witness_sprite_transparent :
    spriteReadable (spriteState rowT (-5) 999) (.splat 0) 1 0xFE (fun _ => .splat 0x11) (BitVec.ofInt 64 (-5)) 999 ∧
    ∀ k < 8, ∀ j < 8, spriteByteFine (spriteState rowT (-5) 999) (fun _ => .splat 0x11) (BitVec.ofInt 64 (-5)) 999 k j :=
  ⟨⟨by decide, by decide, by decide, by decide⟩, fun _ _ j hj =>
    ⟨.transparent, (by decide : ∀ j < 8, paramColor EX (slotOf (.splat 0x11) j) = some .transparent) j hj, .inl rfl⟩⟩

/-- The first fault at byte 0: an unmapped code, and an opaque pixel at x 255. -/
theorem test_witness_sprite_first_fault :
    spriteReadable (spriteState (.bytes (.splat 0x12)) 0 0) (.splat 0) 1 0xFE (fun _ => .splat 0x12) 0 0 ∧
    paramColor EX (slotOf (.splat 0x12) 0) = none ∧
    spriteReadable (spriteState rowR 255 0) (.splat 0) 1 0xFE (fun _ => .splat 0x02) 255 0 ∧
    paramColor EX (slotOf (.splat 0x02) 0) = some red ∧ ¬ inside EX (spriteAt EX 255 0 0 0) ∧
    ∀ k' < 8, ∀ j' < 8, ¬ 8 * k' + j' < 8 * 0 + 0 := by
  refine ⟨⟨?_, ?_, ?_, ?_⟩, ?_, ⟨?_, ?_, ?_, ?_⟩, ?_, ?_, ?_⟩ <;> decide

/-- A Str source, a Float x origin, an Empty y origin. -/
theorem test_witness_sprite_operands :
    (∀ a ∈ (Octet.splat 4).toList ++ [2, 5], a ≠ 0xFF#8) ∧ (stateW []).cell 4 = .str (.splat 0x11) ∧
    (stateW []).cell 3 = .bytes (.splat 0x02) ∧ (stateW []).cell 2 = f1 ∧ (stateW []).cell 0 = int 5 ∧
    (stateW []).cell 5 = .empty := by decide

theorem test_witness_key :
    paramKey (stateW []).params 0x10 = some (.modifier 0) ∧ paramKey EX 0x01 = some .q ∧
    paramColor EX 0x11 = some .transparent := by decide

/-- Two Floats with a number as result (1 + 1), and two whose difference, quotient or product is a NaN. -/
theorem test_witness_float_results :
    (∀ s ∈ [runState EX [] [(0, f1), (1, fInf), (2, fZero)] []],
      s.cell 0 = .float 0x3FF0000000000000 ∧ s.cell 1 = .float 0x7FF0000000000000 ∧ s.cell 2 = .float 0) ∧
    fadd64 0x3FF0000000000000 0x3FF0000000000000 = some 0x4000000000000000 ∧
    fsub64 0x7FF0000000000000 0x7FF0000000000000 = none ∧ fdiv64 0 0 = none ∧
    fmul64 0 0x7FF0000000000000 = none := by decide +kernel

theorem test_witness_float_special :
    f64Finite 0x7FEFFFFFFFFFFFFF = true ∧ f64IsZero 0x7FEFFFFFFFFFFFFF = false ∧ f64IsZero 0x8000000000000000 = true ∧
    f64IsInf 0xFFF0000000000000 = true ∧ f64Finite 0x7FF0000000000000 = false ∧
    f64IsNaN 0x7FF0000000000001 = true ∧ f64IsNaN 0x7FF0000000000000 = false ∧
    f64Neg 0x7FF0000000000000 ≠ f64Neg 0xFFF0000000000000 := by decide

/-- Exact cancellations: 1 and -1, 1 and itself, +0 and -0. -/
theorem test_witness_float_cancellation :
    f64Value 0x3FF0000000000000 + f64Value 0xBFF0000000000000 = 0 ∧
    f64Value 0x3FF0000000000000 - f64Value 0x3FF0000000000000 = 0 ∧
    f64Value 0 + f64Value 0x8000000000000000 = 0 ∧ f64Value 0x8000000000000000 - f64Value 0 = 0 := by
  have h : f64Value 0x3FF0000000000000 = 1 ∧ f64Value 0xBFF0000000000000 = -1 := by decide +kernel
  have z : f64Value 0 = 0 ∧ f64Value 0x8000000000000000 = 0 :=
    ⟨f64Value_of_isZero (by decide), f64Value_of_isZero (by decide)⟩
  rw [h.1, h.2, z.1, z.2]
  norm_num

/-- The least subnormal and 1 are finite, with non-zero values. -/
theorem test_witness_float_exact :
    f64Finite 1 = true ∧ f64Finite 0x3FF0000000000000 = true ∧ f64Value 0x3FF0000000000000 = 1 ∧ f64Value 1 ≠ 0 := by
  refine ⟨by decide, by decide, by decide +kernel, ?_⟩
  have h : f64Value 1 = (1 : ℚ) * (2 : ℚ) ^ (-1074 : Int) := by
    simp only [f64Value, show f64Neg 1 = false from by decide, show f64Significand 1 = 1 from by decide,
      show f64Scale 1 = -1074 from by decide]
    simp
  rw [h, one_mul]
  exact zpow_ne_zero _ two_ne_zero

/-- The two sides of the greatest finite number: a tie goes to infinity, just below it does not. -/
theorem test_witness_rounding :
    f64Finite (f64Round false (2 ^ 54 - 1) 1 970) = false ∧ f64Finite (f64Round false (2 ^ 55 - 3) 1 969) = true ∧
    f64Round false (2 ^ 55 - 3) 1 969 = 0x7FEFFFFFFFFFFFFF ∧ f64Round true 1 2 (-1074) = 0x8000000000000000 := by
  decide +kernel

/-- Int operands whose sum is 2^63 - 1, and whose sum is 2^63; a zero divisor; the overflowing quotient. -/
theorem test_witness_integers :
    (∀ s ∈ [runState EX [] [(0, int (2 ^ 63 - 1)), (1, int 0), (2, int 1), (3, int (-2 ^ 63)), (4, int (-1))] []],
      s.cell 0 = int (2 ^ 63 - 1) ∧ s.cell 1 = int 0 ∧ s.cell 2 = int 1 ∧ s.cell 3 = int (-2 ^ 63) ∧
      s.cell 4 = int (-1)) ∧
    (BitVec.ofInt 64 (2 ^ 63 - 1)).toInt + (BitVec.ofInt 64 0).toInt < 2 ^ 63 ∧
    2 ^ 63 ≤ (BitVec.ofInt 64 (2 ^ 63 - 1)).toInt + (BitVec.ofInt 64 1).toInt ∧
    (BitVec.ofInt 64 (-2 ^ 63)).toInt = -2 ^ 63 ∧ (BitVec.ofInt 64 (-1)).toInt = -1 ∧
    validAddrs 0 1 0xFE := by decide +kernel

/-- No number left, no number right, and each mixture. -/
theorem test_witness_operand_faults :
    ((stateW []).cell 3).numeric = false ∧ ((stateW []).cell 0).numeric = true ∧
    (stateW []).cell 0 = int 5 ∧ (stateW []).cell 2 = f1 ∧ ((stateW []).cell 2).numeric = true ∧
    validAddrs 0 2 0xFE := by decide

theorem test_witness_not :
    (stateW []).cell 1 = .int 0 ∧ (stateW []).cell 5 ≠ .int 0 ∧ (1 : Byte) ≠ 0xFF#8 := by decide

theorem test_witness_comparisons :
    (stateW []).cell 0 = int 5 ∧ (stateW []).cell 1 = int 0 ∧ (stateW []).cell 2 = f1 ∧
    f64IsNaN 0x7FF8000000000000 = true ∧ f64IsNaN 0x7FF0000000000000 = false := by decide

/-- Every tag; an Empty cell and one that is not. -/
theorem test_witness_cells :
    paramTag EX 0x00 = some .int ∧ paramTag EX 0x01 = some .float ∧ paramTag EX 0x02 = some .str ∧
    paramTag EX 0x03 = some .bytes ∧ (stateW []).cell 5 = .empty ∧ (stateW []).cell 0xFE ≠ .empty := by decide

/-- Index 7 and index 8; a Bytes cell, a Str cell, and one that is neither. -/
theorem test_witness_arrays :
    (7#8).toNat ≤ 7 ∧ 7 < (8#8).toNat ∧ (stateW []).cell 3 = .bytes (.splat 0x02) ∧
    (stateW []).cell 4 = .str (.splat 0x11) ∧ (stateW []).cell 0 = int 5 := by decide

/-- A cell that is Int(1), one that is not, and one that is no Int. -/
theorem test_witness_jumps :
    (stateW []).cell 0xFE = .int 1 ∧ (stateW []).cell 0 ≠ .int 1 ∧ (stateW []).cell 2 = f1 := by decide

theorem test_witness_address_ff :
    0xFF#8 ∈ (Instr.varSet 0x00 (.splat 0) 0xFF).addrs ∧
    leadingCodeMapped (stateW []).params (.varSet 0x00 (.splat 0) 0xFF) ∧
    0xFF#8 ∈ (Instr.spriteBlit (.splat 0) 0 0xFF).addrs ∧
    paramKey EX 0x0E = some .space := by
  refine ⟨by decide, ?_, by decide, by decide⟩
  show (paramTag EX 0x00).isSome = true
  decide

theorem test_witness_unmapped :
    paramColor (stateW []).params 0x12 = none ∧ paramKey (stateW []).params 0x00 = none ∧
    paramTag (stateW []).params 0x04 = none := by decide

/-- A valid DIV that faults on its data. -/
theorem test_witness_valid_faults :
    (Instr.div 0 1 0xFE).wellFormed (stateW []).params = true ∧ (stateW []).phase ≠ .faulted ∧
    exec (.div 0 1 0xFE) (stateW []) =
      .next ((stateW []).faultedBy (.div 0 1 0xFE) .divideByZero none (.ints 5 0)) := by
  refine ⟨by decide, by decide, rfl⟩

/-- An ADD, whose destination is cell 0xFE: it is no KEY, no RENDER, draws nothing, takes no draw and does not
jump. -/
theorem test_witness_frame :
    (∃ t, exec (.add 0 1 0xFE) (stateW []) = .next t) ∧ destCell (.add 0 1 0xFE) ≠ some 0 ∧
    drawsPixels (.add 0 1 0xFE) = false ∧ isJump (.add 0 1 0xFE) = false ∧ takesDraw (.add 0 1 0xFE) = false :=
  ⟨⟨_, rfl⟩, by decide, rfl, rfl, rfl⟩

/-- A cell that holds something, a step, and a phase that is not HEADER. -/
theorem test_witness_steps :
    (∃ t, step (stateW [0xB0, 0xFE, 0xFE]) = .next t) ∧ (stateW []).cell 0xFE ≠ .empty ∧
    (stateW []).phase ≠ .header :=
  ⟨⟨_, rfl⟩, by decide, by decide⟩

/-- A PIXEL_LIT beside a Transparent pixel. -/
theorem test_witness_transparent :
    ∃ t, exec (.pixelLit 1 0 0x02) ((stateW []).fill .transparent) = .next t ∧ t.pixel 0 = .transparent :=
  ⟨_, rfl, by decide⟩

end Sys2Proof.Tests
end

section
/-! PROOFS. What one step of the core can do, as one list of cases. -/

namespace Sys2Proof.Machine

/-! ### The header -/

/-- `c'` comes from `c` by directives that raise no fault: flags go from false to true only, and the alt-palette
flag stays (R43, R94 to R97). -/
structure HeaderConfig.FlagsGrow (c c' : HeaderConfig) : Prop where
  repeatPass : c.repeatPass = true → c'.repeatPass = true
  altPalette : c'.altPalette = c.altPalette
  keepOpen : c.keepOpen = true → c'.keepOpen = true
  debug : c.debug = true → c'.debug = true

theorem HeaderConfig.FlagsGrow.refl (c : HeaderConfig) : c.FlagsGrow c :=
  ⟨id, rfl, id, id⟩

/-- A header that parses has cleared no flag and set no alt-palette flag (R42, R43). -/
theorem headerParse_flagsGrow {bs : List Byte} {mode : HeaderMode} {cfg cfg' : HeaderConfig} {p n : Nat}
    (h : headerParse mode cfg p bs = .ok (cfg', n)) : cfg.FlagsGrow cfg' := by
  induction bs generalizing mode cfg p with
  | nil => cases mode <;> cases h
  | cons b rest ih =>
    cases mode with
    | escaped t => exact ih h
    | title t =>
      simp only [headerParse] at h
      split at h
      · obtain ⟨hr, ha, hk, hd⟩ := ih h
        exact ⟨hr, ha, hk, hd⟩
      · split at h <;> exact ih h
    | directive =>
      simp only [headerParse] at h
      split at h
      · cases h
        exact .refl _
      split at h
      · exact ih h
      split at h
      · obtain ⟨hr, ha, hk, hd⟩ := ih h
        exact ⟨fun _ => hr rfl, ha, hk, hd⟩
      split at h
      · cases h
      split at h
      · obtain ⟨hr, ha, hk, hd⟩ := ih h
        exact ⟨hr, ha, fun _ => hk rfl, hd⟩
      split at h
      · obtain ⟨hr, ha, hk, hd⟩ := ih h
        exact ⟨hr, ha, hk, fun _ => hd rfl⟩
      · cases h

/-! ### One step -/

/-- What one step from `s` can lead to, phase by phase (R102). -/
inductive StepEffect (s : State) : State → Prop where
  | headerFault (offset : Nat) (r : Raised) (hp : s.phase = .header) :
    StepEffect s (s.takeHeaderFault offset r)
  | startBody (cfg : HeaderConfig) (hdrLen : Nat) (hp : s.phase = .header)
    (hparse : headerParse .directive s.cfg 0 s.prog = .ok (cfg, hdrLen))
    (hfits : s.prog.length - hdrLen < 2 ^ 64) : StepEffect s (s.startBody cfg hdrLen)
  | passEnds (r : EndReason) (hp : s.phase = .run) : StepEffect s (s.pollOpen.enter (.ended r))
  | fetchFault (op : Byte) (r : Raised) (hp : s.phase = .run) : StepEffect s (s.pollOpen.takeBodyFault op r)
  | instruction (i : Instr) (u : State) (hp : s.phase = .run) (hu : exec i s.pollOpen = .next u) :
    StepEffect s u.pump
  | nextPass (r : EndReason) (hp : s.phase = .ended r) : StepEffect s ((s.jump 0).enter .run)
  | keepOpen (r : EndReason) (hp : s.phase = .ended r) : StepEffect s (s.enter .idle)
  | halt (r : EndReason) (hp : s.phase = .ended r) : StepEffect s (s.enter .halted)
  | idlePoll (hp : s.phase = .idle) : StepEffect s s.pollOpen
  | idleClosed (hp : s.phase = .idle) : StepEffect s (s.pollOpen.enter .halted)

theorem stepHeader_effect {s t : State} (hp : s.phase = .header) (h : stepHeader s = .next t) :
    StepEffect s t := by
  unfold stepHeader at h
  split at h
  · cases h
    exact .headerFault _ _ hp
  · split at h
    · cases h
    · cases h
      exact .startBody _ _ hp ‹_› (by omega)

theorem stepRun_effect {s t : State} (hp : s.phase = .run) (h : stepRun s = .next t) : StepEffect s t := by
  rcases stepRun_cases h with ⟨-, rfl⟩ | ⟨-, -, rfl⟩ | ⟨op, -, -, rfl⟩ | ⟨op, n, -, -, rfl⟩ |
    ⟨i, rest, u, -, -, hu, rfl⟩
  · exact .passEnds _ hp
  · exact .passEnds _ hp
  · exact .fetchFault op _ hp
  · exact .fetchFault op _ hp
  · exact .instruction i u hp hu

theorem stepEnd_effect {s t : State} {r : EndReason} (hp : s.phase = .ended r) (h : stepEnd s = .next t) :
    StepEffect s t := by
  unfold stepEnd at h
  split at h
  · cases h
    exact .nextPass r hp
  · split at h <;> cases h
    · exact .keepOpen r hp
    · exact .halt r hp

theorem stepIdle_effect {s t : State} (hp : s.phase = .idle) (h : stepIdle s = .next t) : StepEffect s t := by
  unfold stepIdle at h
  split at h <;> cases h
  · exact .idlePoll hp
  · exact .idleClosed hp

/-- Everything one step can do (R102). -/
theorem step_effect {s t : State} (h : step s = .next t) : StepEffect s t := by
  rcases step_cases h with ⟨hp, h⟩ | ⟨hp, h⟩ | ⟨⟨r, hp⟩, h⟩ | ⟨hp, h⟩
  · exact stepHeader_effect hp h
  · exact stepRun_effect hp h
  · exact stepEnd_effect hp h
  · exact stepIdle_effect hp h

end Sys2Proof.Machine
end

section
/-! PROOFS. The invariant: one lemma per operation that keeps it, then every instruction and every step (O3). -/

namespace Sys2Proof.Machine

/-! ### The operations keep the invariant -/

/-- The invariant says nothing of the cursor, the log and the draws. -/
theorem State.Inv.withFreeFields {s : State} (h : s.Inv) (cursor : Word) (log : List HostCall)
    (answers : List Bool) (draws : Nat) :
    State.Inv { s with cursor := cursor, log := log, answers := answers, draws := draws } :=
  ⟨h.lawful, h.memory, h.frame, h.colors, h.record, h.altPalette, h.bodyFits⟩

theorem State.Inv.past {s : State} (h : s.Inv) (n : Nat) : (s.past n).Inv :=
  h.withFreeFields _ s.log s.answers s.draws

theorem State.Inv.jump {s : State} (h : s.Inv) (t : Word) : (s.jump t).Inv :=
  h.withFreeFields t s.log s.answers s.draws

theorem State.Inv.call {s : State} (h : s.Inv) (c : HostCall) : (s.call c).Inv :=
  h.withFreeFields s.cursor _ s.answers s.draws

theorem State.Inv.drewNaN {s : State} (h : s.Inv) : s.drewNaN.Inv :=
  h.withFreeFields s.cursor s.log s.answers _

theorem State.Inv.answered {s : State} (h : s.Inv) : s.answered.Inv := by
  unfold State.answered
  split
  · exact h.withFreeFields s.cursor s.log _ s.draws
  · exact h.withFreeFields s.cursor s.log s.answers _

theorem State.Inv.pollOpen {s : State} (h : s.Inv) : s.pollOpen.Inv :=
  h.answered.call _

theorem State.Inv.pollKey {s : State} (h : s.Inv) (k : Key) : (s.pollKey k).Inv :=
  h.answered.call _

theorem State.Inv.pump {s : State} (h : s.Inv) : s.pump.Inv := by
  unfold State.pump
  split
  · exact h
  · exact h.call _

theorem State.Inv.setCell {s : State} (h : s.Inv) {a : Byte} (ha : a ≠ 0xFF#8) (v : CellValue) :
    (s.setCell a v).Inv :=
  ⟨h.lawful, setCell_wf h.memory ha v, h.frame, h.colors, h.record, h.altPalette, h.bodyFits⟩

theorem State.Inv.setPixel {s : State} (h : s.Inv) {n : Nat} (hn : n < pixelCount s.params) {c : Color}
    (hc : c ∈ s.params.colors.map ColorRow.color) : (s.setPixel n c).Inv := by
  obtain ⟨hbase, hpixels⟩ := h.colors
  have hcolors : frameColors (s.setPixel n c).params (s.setPixel n c).fb := by
    refine ⟨hbase, fun e he => ?_⟩
    rcases mem_sparseWrite _ he with rfl | he
    · exact hc
    · exact hpixels e he
  exact ⟨h.lawful, h.memory, setPixel_wf h.frame hn c, hcolors, h.record, h.altPalette, h.bodyFits⟩

theorem State.Inv.setPixels {px : List (Nat × Color)} {s : State} (h : s.Inv)
    (hpx : ∀ e ∈ px, e.1 < pixelCount s.params ∧ e.2 ∈ s.params.colors.map ColorRow.color) :
    (s.setPixels px).Inv := by
  induction px generalizing s with
  | nil => exact h
  | cons e rest ih =>
    obtain ⟨⟨hn, hc⟩, hrest⟩ := List.forall_mem_cons.1 hpx
    exact ih (h.setPixel hn hc) hrest

theorem State.Inv.fill {s : State} (h : s.Inv) {c : Color} (hc : c ∈ s.params.colors.map ColorRow.color) :
    (s.fill c).Inv :=
  ⟨h.lawful, h.memory, fill_wf s c, ⟨hc, by simp⟩, h.record, h.altPalette, h.bodyFits⟩

/-- Taking a fault writes the phase and the record together (R161). -/
theorem State.Inv.takeFault {s : State} (h : s.Inv) (r : Raised) (site : FaultSite) (offset : Nat)
    (op : Option Byte) : (s.takeFault r site offset op).Inv :=
  ⟨h.lawful, h.memory, h.frame, h.colors, by simp, h.altPalette, .inr (.inl rfl)⟩

/-- Outside FAULTED there is no fault record. -/
theorem State.Inv.fault_eq_none {s : State} (h : s.Inv) (hp : s.phase ≠ .faulted) : s.fault = none :=
  not_ne_iff.1 fun hf => hp (h.record.2 hf)

/-- Once the header has parsed and while no fault is taken, BODY_LEN is below 2^64. -/
theorem State.Inv.bodyLen_lt {s : State} (h : s.Inv) (hh : s.phase ≠ .header) (hf : s.phase ≠ .faulted) :
    s.bodyLen < 2 ^ 64 :=
  (h.bodyFits.resolve_left hh).resolve_left hf

theorem State.Inv.enter {s : State} (h : s.Inv) (hh : s.phase ≠ .header) (hf : s.phase ≠ .faulted) {p : Phase}
    (hp : p ≠ .faulted) : (s.enter p).Inv :=
  ⟨h.lawful, h.memory, h.frame, h.colors, by simp [hp, h.fault_eq_none hf], h.altPalette,
    .inr (.inr (h.bodyLen_lt hh hf))⟩

theorem State.Inv.startBody {s : State} (h : s.Inv) (hp : s.phase = .header) {cfg : HeaderConfig} {n : Nat}
    (hcfg : cfg.altPalette = false) (hfits : s.prog.length - n < 2 ^ 64) : (s.startBody cfg n).Inv :=
  ⟨h.lawful, h.memory, h.frame, h.colors, by simp [h.fault_eq_none (by simp [hp])], hcfg, .inr (.inr hfits)⟩

/-! ### Instructions and steps keep the invariant -/

theorem Effect.inv {i : Instr} {s t : State} (he : Effect i s t) (h : s.Inv) : t.Inv := by
  cases he with
  | fault kind reason value => exact h.takeFault ⟨kind, reason, value⟩ _ _ _
  | past => exact h.past _
  | cell a v _ ha _ => exact (h.past _).setCell ha v
  | nan a f _ _ ha _ => exact (h.past _).drewNaN.setCell ha _
  | key k a key _ ha => exact ((h.past _).pollKey key).setCell ha _
  | pixels px _ hpx =>
    refine (h.past _).setPixels fun e he => ?_
    obtain ⟨hin, -, hc⟩ := hpx e he
    exact ⟨hin h.lawful.1, hc⟩
  | fill b c _ hc => exact (h.past _).fill hc
  | present _ => exact (h.past _).call _
  | jump t _ => exact h.jump t

theorem StepEffect.inv {s t : State} (he : StepEffect s t) (h : s.Inv) : t.Inv := by
  cases he with
  | headerFault offset r _ => exact h.takeFault r _ _ _
  | startBody cfg n hp hparse hfits =>
    exact h.startBody hp ((headerParse_flagsGrow hparse).altPalette.trans h.altPalette) hfits
  | passEnds r hp => exact h.pollOpen.enter (by simp [hp]) (by simp [hp]) (by simp)
  | fetchFault op r _ => exact h.pollOpen.takeFault r _ _ _
  | instruction i u _ hu => exact ((exec_effect hu).inv h.pollOpen).pump
  | nextPass r hp => exact (h.jump 0).enter (by simp [hp]) (by simp [hp]) (by simp)
  | keepOpen r hp => exact h.enter (by simp [hp]) (by simp [hp]) (by simp)
  | halt r hp => exact h.enter (by simp [hp]) (by simp [hp]) (by simp)
  | idlePoll _ => exact h.pollOpen
  | idleClosed hp => exact h.pollOpen.enter (by simp [hp]) (by simp [hp]) (by simp)

end Sys2Proof.Machine

namespace Sys2Proof.Claims

open Sys2Proof.Machine

/-- Settles O3: every operation a step is made of keeps the invariant. -/
theorem stepKeepsInvariant : Obligations.StepKeepsInvariant := by
  intro s t hs h
  exact (step_effect h).inv hs

end Sys2Proof.Claims
end

section
/-! PROOFS. The state after reset, and the phases without a step (O1, O2, O15). -/

namespace Sys2Proof.Machine

/-- The FB_INIT draw of every pixel is a Color of the table (R34, R35). -/
theorem initColor_mem {P : Params} (h : P.Lawful) (n : Nat) : initColor P n ∈ P.colors.map ColorRow.color := by
  obtain ⟨-, -, -, hblack, -⟩ := h
  unfold initColor
  cases hc : paramColor P (Config.fbInitByte n) with
  | none => exact hblack
  | some c => exact colorDecode_mem (colorDecode_eq_ok.2 hc)

theorem reset_pixel (n : Nat) : State.reset.pixel n = initColor State.reset.params n := rfl

theorem reset_inv : State.reset.Inv where
  lawful := Config.chip.lawful
  memory := memory_wf_nil
  frame := by simp [frameWf, sparseWf, sparseSorted]
  colors := by simp [frameColors]
  record := by simp
  altPalette := rfl
  bodyFits := .inl rfl

theorem step_halted {s : State} (h : s.phase = .halted) : step s = .fault .halted := by
  simp [step, h]

theorem step_faulted {s : State} (h : s.phase = .faulted) : step s = .fault .faulted := by
  simp [step, h]

end Sys2Proof.Machine

namespace Sys2Proof.Claims

open Sys2Proof.Machine

/-- Settles O1: the reset values are read off, and each pixel is an FB_INIT draw. -/
theorem resetState : Obligations.ResetState := by
  refine ⟨rfl, rfl, rfl, reset_cell, rfl, rfl, fun n => ?_⟩
  rw [reset_pixel]
  exact initColor_mem Config.chip.lawful n

/-- Settles O2: the chip's parameters are lawful, and bank, frame and record are empty. -/
theorem resetMeetsInvariant : Obligations.ResetMeetsInvariant :=
  reset_inv

/-- Settles O15: in HALTED and in FAULTED `step` answers its named fault. -/
theorem stoppedPhasesHaveNoStep : Obligations.StoppedPhasesHaveNoStep := by
  refine ⟨rfl, ?_⟩
  rintro s t (hp | hp)
  · simp [step_halted hp]
  · simp [step_faulted hp]

end Sys2Proof.Claims
end

section
/-! PROOFS. The frame of every instruction: one lemma per piece of state over `Effect` (O55), and what instructions
and steps never do to cells, pixels and the configuration (O56, O57, O20). -/

namespace Sys2Proof.Machine

variable {i : Instr} {s t : State}

/-! ### What an instruction leaves alone -/

theorem Effect.cfg (h : Effect i s t) : t.cfg = s.cfg := by
  cases h <;> simp

theorem Effect.prog (h : Effect i s t) : t.prog = s.prog := by
  cases h <;> simp

theorem Effect.hdrLen (h : Effect i s t) : t.hdrLen = s.hdrLen := by
  cases h <;> simp

theorem Effect.params (h : Effect i s t) : t.params = s.params := by
  cases h <;> simp

/-- No instruction writes a cell but its destination (R51). -/
theorem Effect.cell_of_ne_dest (h : Effect i s t) {b : Byte} (hb : destCell i ≠ some b) : t.cell b = s.cell b := by
  have hne : ∀ {a}, destCell i = some a → b ≠ a := by
    rintro a hd rfl
    exact hb hd
  cases h with
  | cell a v hd _ _ => simp [hne hd]
  | nan a f hd _ _ _ => simp [hne hd]
  | key k a key hi _ => simp [hne (a := a) (by rw [hi]; rfl)]
  | _ => simp

theorem Effect.fb_of_not_draws (h : Effect i s t) (hi : drawsPixels i = false) : t.fb = s.fb := by
  cases h with
  | pixels px hd _ => simp [hi] at hd
  | fill b c hc _ => simp [hc, drawsPixels] at hi
  | _ => simp

theorem Effect.answers_of_not_key (h : Effect i s t) (hi : ∀ k d, i ≠ .key k d) : t.answers = s.answers := by
  cases h with
  | key k a key hk _ => exact absurd hk (hi k a)
  | _ => simp

theorem Effect.log_of_not_call (h : Effect i s t) (hi : ∀ k d, i ≠ .key k d) (hr : i ≠ .render) :
    t.log = s.log := by
  cases h with
  | key k a key hk _ => exact absurd hk (hi k a)
  | present hp => exact absurd hp hr
  | _ => simp

theorem Effect.draws_of_not_takesDraw (h : Effect i s t) (hi : takesDraw i = false) : t.draws = s.draws := by
  cases h with
  | nan a f _ ht _ _ => simp [hi] at ht
  | key k a key hk _ => simp [hk, takesDraw] at hi
  | _ => simp

/-- An instruction completes, past itself unless it jumps, or it faults and writes nothing else (R37, R161). -/
theorem Effect.completes_or_faults (h : Effect i s t) :
    (t.phase = s.phase ∧ t.fault = s.fault ∧
      (isJump i = false → t.cursor = s.cursor + BitVec.ofNat 64 i.length)) ∨
    ∃ kind reason value, t = s.faultedBy i kind reason value := by
  cases h with
  | fault kind reason value => exact .inr ⟨kind, reason, value, rfl⟩
  | jump w hj => exact .inl ⟨rfl, rfl, by simp [hj]⟩
  | _ => exact .inl (by simp)

/-! ### Cells that hold something -/

/-- Every value an instruction writes is one of the four that are not Empty (R32). -/
theorem Effect.cell_ne_empty (h : Effect i s t) {b : Byte} (hb : s.cell b ≠ .empty) : t.cell b ≠ .empty := by
  cases h with
  | cell a v _ _ hv =>
    rw [setCell_cell]
    split
    · exact hv
    · simpa using hb
  | nan a f _ _ _ _ =>
    rw [setCell_cell]
    split
    · simp
    · simpa using hb
  | key k a key _ _ =>
    rw [setCell_cell]
    split
    · exact truth_ne_empty _
    · simpa using hb
  | _ => simpa using hb

theorem StepEffect.cell_ne_empty (h : StepEffect s t) {b : Byte} (hb : s.cell b ≠ .empty) :
    t.cell b ≠ .empty := by
  cases h with
  | instruction i u _ hu =>
    rw [pump_cell]
    exact (exec_effect hu).cell_ne_empty (by simpa using hb)
  | headerFault => exact hb
  | startBody => exact hb
  | _ => simpa using hb

/-! ### Transparent pixels -/

/-- Opaque writes make no pixel Transparent. -/
theorem setPixels_pixel_transparent {px : List (Nat × Color)} (hpx : ∀ e ∈ px, e.2 ≠ .transparent) {n : Nat}
    (h : (s.setPixels px).pixel n = .transparent) : s.pixel n = .transparent := by
  induction px generalizing s with
  | nil => exact h
  | cons e rest ih =>
    obtain ⟨he, hrest⟩ := List.forall_mem_cons.1 hpx
    have h1 : (s.setPixel e.1 e.2).pixel n = .transparent := ih hrest h
    rw [setPixel_pixel] at h1
    split at h1
    · exact absurd h1 he
    · exact h1

/-- The drawing forms skip Transparent, and only CLEAR fills (R117, R154). -/
theorem Effect.pixel_transparent (h : Effect i s t) (hi : ∀ b, i ≠ .clear b) {n : Nat}
    (hn : t.pixel n = .transparent) : s.pixel n = .transparent := by
  cases h with
  | pixels px _ hpx => exact setPixels_pixel_transparent (s := s.past i.length) (fun e he => (hpx e he).2.1) hn
  | fill b c hc _ => exact absurd hc (hi b)
  | _ => exact (pixel_of_fb (by simp) (by simp) n).symm.trans hn

/-! ### The configuration -/

/-- Only the header step writes the configuration, and it clears no flag (R42). -/
theorem StepEffect.cfg (h : StepEffect s t) : t.cfg = s.cfg ∨ (s.phase = .header ∧ s.cfg.FlagsGrow t.cfg) := by
  cases h with
  | startBody cfg n hp hparse _ => exact .inr ⟨hp, headerParse_flagsGrow hparse⟩
  | instruction i u _ hu => exact .inl (by simp [(exec_effect hu).cfg])
  | _ => exact .inl (by simp)

theorem StepEffect.flagsGrow (h : StepEffect s t) : s.cfg.FlagsGrow t.cfg := by
  rcases h.cfg with hc | ⟨-, hc⟩
  · exact hc ▸ .refl _
  · exact hc

end Sys2Proof.Machine

namespace Sys2Proof.Claims

open Sys2Proof.Machine

/-- Settles O55, piece by piece of the state. -/
theorem instructionFrame : Obligations.InstructionFrame := by
  intro i s t h
  have he : Effect i s t := exec_effect h
  exact ⟨he.cfg, he.prog, he.hdrLen, he.params, fun _ => he.cell_of_ne_dest, he.fb_of_not_draws,
    fun hk => ⟨he.answers_of_not_key hk, he.log_of_not_call hk⟩, he.draws_of_not_takesDraw,
    he.completes_or_faults⟩

/-- Settles O56: the only writes of cells are an instruction's, and no value it writes is Empty. -/
theorem cellsNeverBecomeEmpty : Obligations.CellsNeverBecomeEmpty := by
  intro s t a h
  exact (step_effect h).cell_ne_empty

/-- Settles O57: a drawing form writes opaque Colors only, and no other form but CLEAR writes the frame. -/
theorem onlyClearMakesPixelsTransparent : Obligations.OnlyClearMakesPixelsTransparent := by
  intro i s t n hi h
  exact (exec_effect h).pixel_transparent hi

/-- Settles O20: only the start of the body writes the configuration, and a header's directives only set flags. -/
theorem configurationOnlyWrittenInHeader : Obligations.ConfigurationOnlyWrittenInHeader := by
  intro s t h
  have he : StepEffect s t := step_effect h
  obtain ⟨hr, ha, hk, hd⟩ := he.flagsGrow
  exact ⟨fun hp => he.cfg.resolve_right fun hc => hp hc.1, hr, ha.trans, hk, hd⟩

end Sys2Proof.Claims
end

section
/-! PROOFS. What no instruction reads: the configuration and the older host calls. Every operation commutes with a
change of them, so every instruction and every step outside the header does (O60). -/

namespace Sys2Proof.Machine

open Sys2Proof.Claims

/-- `s` with the configuration changed by `φ` and the host calls `l` added below its log. `withOlderLog l` is this
change with `φ` the identity, and `withDebug b` with no call added. -/
def withUnread (φ : HeaderConfig → HeaderConfig) (l : List HostCall) (s : State) : State :=
  { s with cfg := φ s.cfg, log := s.log ++ l }

variable (φ : HeaderConfig → HeaderConfig) (l : List HostCall)

/-! ### The operations -/

theorem withUnread_answered (s : State) : (withUnread φ l s).answered = withUnread φ l s.answered := by
  rcases s with ⟨_, _, _, _, _, _, _, _, _, _, _ | _, _⟩ <;> rfl

theorem withUnread_pollOpen (s : State) : (withUnread φ l s).pollOpen = withUnread φ l s.pollOpen := by
  simp only [State.pollOpen, withUnread_answered]
  rfl

theorem withUnread_pollKey (s : State) (k : Key) : (withUnread φ l s).pollKey k = withUnread φ l (s.pollKey k) := by
  simp only [State.pollKey, withUnread_answered]
  rfl

theorem withUnread_setPixels (px : List (Nat × Color)) (s : State) :
    (withUnread φ l s).setPixels px = withUnread φ l (s.setPixels px) := by
  induction px generalizing s with
  | nil => rfl
  | cons e rest ih => exact ih (s.setPixel e.1 e.2)

theorem withUnread_setFloat (s : State) (a : Byte) (r : Option Word) :
    (withUnread φ l s).setFloat a r = withUnread φ l (s.setFloat a r) := by
  cases r <;> rfl

theorem withUnread_pump (s : State) : (withUnread φ l s).pump = withUnread φ l s.pump :=
  (apply_ite (withUnread φ l) (s.phase = .faulted) s (s.call .pumpEvents)).symm

/-! ### Effects, form by form

That an operand form, a condition or a write of one instruction does not read the two holds by `rfl`, which the lemmas
try when no proof is given. -/

/-- The effect `f` reads neither the configuration nor the older host calls, and passes both on. -/
def Unreading (f : State → Checked State) : Prop :=
  ∀ φ l s, f (withUnread φ l s) = (f s).map (withUnread φ l)

theorem Unreading.ok {g : State → State}
    (hg : ∀ φ l s, g (withUnread φ l s) = withUnread φ l (g s) := by intros; rfl) :
    Unreading fun s => .ok (g s) :=
  fun φ l s => congrArg Except.ok (hg φ l s)

theorem Unreading.error (r : Raised) : Unreading fun _ => .error r :=
  fun _ _ _ => rfl

/-- A check that reads nothing of the two comes before the rest of the effect. -/
theorem Unreading.bind {α : Type} {x : State → Checked α} {f : α → State → Checked State}
    (hf : ∀ a, Unreading (f a)) (hx : ∀ φ l s, x (withUnread φ l s) = x s := by intros; rfl) :
    Unreading fun s => x s >>= fun a => f a s := by
  intro φ l s
  simp only [hx]
  cases x s with
  | ok a => exact hf a φ l s
  | error r => rfl

theorem Unreading.ite {p : State → Prop} [∀ s, Decidable (p s)] {f g : State → Checked State}
    (hf : Unreading f) (hg : Unreading g) (hp : ∀ φ l s, p (withUnread φ l s) = p s := by intros; rfl) :
    Unreading fun s => if p s then f s else g s := by
  intro φ l s
  by_cases h : p s
  · simpa [h, hp] using hf φ l s
  · simpa [h, hp] using hg φ l s

theorem unreading_floatArith (op : Word → Word → Option Word) (a b d : Byte) : Unreading (floatArith op a b d) :=
  .bind (x := fun s => floatOperands s a b d) fun _ => .ok fun φ l s => withUnread_setFloat φ l s d _

theorem unreading_intArith (op : Int → Int → Int) (a b d : Byte) : Unreading (intArith op a b d) :=
  .bind (x := fun s => intOperands s a b d) fun (x, y) =>
    .bind (x := fun _ => narrow x y (op x y)) fun _ => .ok

theorem unreading_compareInto (onInt : Int → Int → Bool) (onFloat : Word → Word → Bool) (a b d : Byte) :
    Unreading (compareInto onInt onFloat a b d) :=
  .bind (x := fun s => numericOperands s a b d) fun v =>
    .bind (x := fun _ => compareCells onInt onFloat v) fun _ => .ok

theorem perform_withUnread {f : State → Checked State} (hf : Unreading f) (i : Instr) (s : State) :
    (withUnread φ l s).perform i f = mapNext (withUnread φ l) (s.perform i f) := by
  have h : f ((withUnread φ l s).advance i.length) = (f (s.advance i.length)).map (withUnread φ l) :=
    hf φ l (s.advance i.length)
  unfold State.perform
  rw [h]
  cases f (s.advance i.length) <;> rfl

/-- Every instruction is the performing of an effect that reads neither of the two. -/
theorem exec_eq_perform_unreading (i : Instr) : ∃ f, (∀ s, exec i s = s.perform i f) ∧ Unreading f := by
  cases i with
  | nop => exact ⟨_, exec_nop, .ok⟩
  | pixelLit x y b => exact ⟨_, exec_pixelLit x y b, .bind fun _ => .ite .ok (.ite (.error _) .ok)⟩
  | pixelMem xa ya b =>
    refine ⟨_, exec_pixelMem xa ya b, .bind fun _ => .bind fun c => ?_⟩
    exact .bind fun vx => .bind fun vy => .bind fun x => .bind fun y => .ite .ok .ok
  | spriteBlit srcs xa ya =>
    refine ⟨_, exec_spriteBlit srcs xa ya, .bind fun _ => .bind fun rows => ?_⟩
    exact .bind fun ox => .bind fun oy => .bind fun px => .ok fun φ l => withUnread_setPixels φ l px
  | fdiv a b d => exact ⟨_, exec_fdiv a b d, unreading_floatArith _ a b d⟩
  | fsub a b d => exact ⟨_, exec_fsub a b d, unreading_floatArith _ a b d⟩
  | fadd a b d => exact ⟨_, exec_fadd a b d, unreading_floatArith _ a b d⟩
  | fmul a b d => exact ⟨_, exec_fmul a b d, unreading_floatArith _ a b d⟩
  | div a b d => exact ⟨_, exec_div a b d, .bind fun (x, y) => .ite (.error _) (.bind fun _ => .ok)⟩
  | sub a b d => exact ⟨_, exec_sub a b d, unreading_intArith _ a b d⟩
  | add a b d => exact ⟨_, exec_add a b d, unreading_intArith _ a b d⟩
  | mul a b d => exact ⟨_, exec_mul a b d, unreading_intArith _ a b d⟩
  | notCell a d => exact ⟨_, exec_notCell a d, .bind fun _ => .ok⟩
  | gt a b d => exact ⟨_, exec_gt a b d, unreading_compareInto _ _ a b d⟩
  | lt a b d => exact ⟨_, exec_lt a b d, unreading_compareInto _ _ a b d⟩
  | varSet t p d => exact ⟨_, exec_varSet t p d, .bind fun _ => .ok⟩
  | letCell t p d => exact ⟨_, exec_letCell t p d, .bind fun _ => .ite .ok .ok⟩
  | arrayWrite a n v =>
    exact ⟨_, exec_arrayWrite a n v, .bind fun _ => .ite (.error _) (.bind fun _ => .ok)⟩
  | tjmp a o => exact ⟨_, exec_tjmp a o, .bind fun _ => .ite .ok .ok⟩
  | fjmp a o => exact ⟨_, exec_fjmp a o, .bind fun _ => .ite .ok .ok⟩
  | jmp o => exact ⟨_, exec_jmp o, .ok⟩
  | vjmp a => exact ⟨_, exec_vjmp a, .bind fun _ => .bind fun _ => .ok⟩
  | key b d =>
    refine ⟨_, exec_key b d, .bind fun k => .bind fun _ => .ok fun φ l s => ?_⟩
    rw [withUnread_pollKey]
    rfl
  | render => exact ⟨_, exec_render, .ok⟩
  | clear b => exact ⟨_, exec_clear b, .bind fun _ => .ok⟩

theorem exec_withUnread (i : Instr) (s : State) :
    exec i (withUnread φ l s) = mapNext (withUnread φ l) (exec i s) := by
  obtain ⟨f, he, hf⟩ := exec_eq_perform_unreading i
  rw [he, he]
  exact perform_withUnread φ l hf i s

/-! ### Steps -/

theorem afterExec_withUnread (o : Host.Outcome State Fault Refusal) :
    afterExec (mapNext (withUnread φ l) o) = mapNext (withUnread φ l) (afterExec o) := by
  cases o with
  | next t => exact congrArg Host.Outcome.next (withUnread_pump φ l t)
  | fault r => rfl
  | refused r => rfl

theorem stepRun_withUnread (s : State) :
    stepRun (withUnread φ l s) = mapNext (withUnread φ l) (stepRun s) := by
  have hanswer : (withUnread φ l s).nextAnswer = s.nextAnswer := rfl
  have hfetch : (withUnread φ l s.pollOpen).fetch = s.pollOpen.fetch := rfl
  simp only [stepRun, withUnread_pollOpen, hanswer, hfetch, exec_withUnread, afterExec_withUnread]
  split
  · split <;> rfl
  · rfl

theorem stepIdle_withUnread (s : State) :
    stepIdle (withUnread φ l s) = mapNext (withUnread φ l) (stepIdle s) := by
  have hanswer : (withUnread φ l s).nextAnswer = s.nextAnswer := rfl
  simp only [stepIdle, withUnread_pollOpen, hanswer]
  split <;> rfl

/-- The post-loop step reads the repeat and keep-open flags (R110), so `φ` must keep them here. -/
theorem stepEnd_withUnread {s : State} (hr : (φ s.cfg).repeatPass = s.cfg.repeatPass)
    (hk : (φ s.cfg).keepOpen = s.cfg.keepOpen) :
    stepEnd (withUnread φ l s) = mapNext (withUnread φ l) (stepEnd s) := by
  have hcfg : (withUnread φ l s).cfg = φ s.cfg := rfl
  simp only [stepEnd, hcfg, hr, hk]
  split
  · rfl
  · split <;> rfl

theorem stepHeader_withOlderLog (s : State) :
    stepHeader (withOlderLog l s) = mapNext (withOlderLog l) (stepHeader s) := by
  have hcfg : (withOlderLog l s).cfg = s.cfg := rfl
  have hprog : (withOlderLog l s).prog = s.prog := rfl
  simp only [stepHeader, hcfg, hprog]
  split
  · rfl
  · split <;> rfl

/-- Outside the header no step reads the older calls, nor of the configuration more than two flags (R25, R97). -/
theorem step_withUnread {s : State} (hp : s.phase ≠ .header) (hr : (φ s.cfg).repeatPass = s.cfg.repeatPass)
    (hk : (φ s.cfg).keepOpen = s.cfg.keepOpen) :
    step (withUnread φ l s) = mapNext (withUnread φ l) (step s) := by
  have hphase : (withUnread φ l s).phase = s.phase := rfl
  unfold step
  rw [hphase]
  split
  · exact absurd ‹_› hp
  · exact stepRun_withUnread φ l s
  · exact stepEnd_withUnread φ l hr hk
  · exact stepIdle_withUnread φ l s
  · rfl
  · rfl

end Sys2Proof.Machine

namespace Sys2Proof.Claims

open Sys2Proof.Machine

/-- Settles O60: the header step is looked at directly, every other step by `step_withUnread`. -/
theorem logIsNeverRead : Obligations.LogIsNeverRead := by
  intro s l
  by_cases hp : s.phase = .header
  · have hp' : (withOlderLog l s).phase = .header := hp
    rw [step, step, hp, hp']
    exact stepHeader_withOlderLog l s
  · exact step_withUnread id l hp rfl rfl

end Sys2Proof.Claims
end

section
/-! PROOFS. No step writes the program or the parameters (O21). -/

namespace Sys2Proof.Machine

variable {s t : State}

theorem StepEffect.prog (h : StepEffect s t) : t.prog = s.prog := by
  cases h with
  | instruction i u _ hu => simp [(exec_effect hu).prog]
  | _ => simp

theorem StepEffect.params (h : StepEffect s t) : t.params = s.params := by
  cases h with
  | instruction i u _ hu => simp [(exec_effect hu).params]
  | _ => simp

/-- Only the header step says where the body starts (R47). -/
theorem StepEffect.hdrLen (h : StepEffect s t) (hp : s.phase ≠ .header) : t.hdrLen = s.hdrLen := by
  cases h with
  | startBody cfg n hh _ _ => exact absurd hh hp
  | instruction i u _ hu => simp [(exec_effect hu).hdrLen]
  | _ => simp

theorem StepEffect.body (h : StepEffect s t) (hp : s.phase ≠ .header) : t.body = s.body := by
  simp [State.body, h.prog, h.hdrLen hp]

end Sys2Proof.Machine

namespace Sys2Proof.Claims

open Sys2Proof.Machine

/-- Settles O21: no effect of a step writes the program, and only the start of the body moves where it begins. -/
theorem programIsNeverWritten : Obligations.ProgramIsNeverWritten := by
  intro s t h
  have he : StepEffect s t := step_effect h
  exact ⟨he.prog, he.body, he.params⟩

end Sys2Proof.Claims
end

section
/-! PROOFS. What the statements about single instructions share: performing an effect in the state past the
instruction, and typed reads in that state and of cells with another tag. -/

namespace Sys2Proof.Machine

variable {s t : State} {i : Instr} {f : State → Checked State} {r : Raised} {a : Byte}

/-! ### Executing -/

theorem perform_completes (h : f (s.past i.length) = .ok t) : s.perform i f = .next t :=
  perform_ok (by rwa [advance_eq_past])

theorem perform_raises (h : f (s.past i.length) = .error r) :
    s.perform i f = .next (s.faultedBy i r.kind r.reason r.value) :=
  perform_error (by rwa [advance_eq_past])

/-- Passing an instruction and writing one cell is all that `WritesCell` allows. -/
theorem writesCell_past_setCell (s : State) (len : Nat) (d : Byte) (v : CellValue) :
    WritesCell s ((s.past len).setCell d v) len d v :=
  ⟨rfl, by simp, fun b hb => by simp [hb]⟩

/-! ### Typed reads (R55) -/

@[simp] theorem numeric_int (x : Word) : (CellValue.int x).numeric = true := rfl

@[simp] theorem numeric_float (f : Word) : (CellValue.float f).numeric = true := rfl

@[simp] theorem readNumeric_past (s : State) (n : Nat) (a : Byte) : readNumeric (s.past n) a = readNumeric s a := rfl

@[simp] theorem readInt_past (s : State) (n : Nat) (a : Byte) : readInt (s.past n) a = readInt s a := rfl

@[simp] theorem readBytes_past (s : State) (n : Nat) (a : Byte) : readBytes (s.past n) a = readBytes s a := rfl

@[simp] theorem readArray_past (s : State) (n : Nat) (a : Byte) : readArray (s.past n) a = readArray s a := rfl

@[simp] theorem readRows_past (s : State) (n : Nat) (l : List Byte) : readRows (s.past n) l = readRows s l := by
  induction l with
  | nil => rfl
  | cons a rest ih => simp [readRows, ih]

theorem readInt_of_not_int (h : ∀ n, s.cell a ≠ .int n) : readInt s a = .error (typeMismatch (s.cell a)) := by
  unfold readInt
  cases hv : s.cell a with
  | int n => exact absurd hv (h n)
  | _ => rfl

theorem readBytes_of_not_bytes (h : ∀ b, s.cell a ≠ .bytes b) :
    readBytes s a = .error (typeMismatch (s.cell a)) := by
  unfold readBytes
  cases hv : s.cell a with
  | bytes b => exact absurd hv (h b)
  | _ => rfl

end Sys2Proof.Machine
end

section
/-! PROOFS. The operands of PIXEL_MEM (O26): both cells are read as numbers before either is taken as a coordinate
(R121). -/

namespace Sys2Proof.Machine

/-! ### One coordinate (R120) -/

@[simp] theorem coord_float (f : Word) (n : Nat) :
    coord (.float f) n = .error (raiseUnmodelled .floatCoordinate (.cell (.float f))) := rfl

theorem coord_int_of_neg {x : Word} (h : x.toInt < 0) (n : Nat) :
    coord (.int x) n = .error (raiseUnmodelled .negativeCoordinate (.cell (.int x))) := by
  simp [coord, h]

theorem coord_int_of_nonneg {x : Word} (h : 0 ≤ x.toInt) (n : Nat) :
    coord (.int x) n = .ok (x.toInt.toNat % n) := by
  simp [coord, not_lt.2 h]

/-! ### Both coordinates -/

/-- The coordinates that PIXEL_MEM takes from two cells, in the order of its checks (R121). -/
def pixelMemCoords (xa ya : Byte) (s : State) : Checked (Nat × Nat) := do
  let vx ← readNumeric s xa
  let vy ← readNumeric s ya
  let x ← coord vx fbWidth
  let y ← coord vy s.params.fbHeight
  .ok (x, y)

/-- With valid addresses and a mapped colour, what the coordinates raise is what PIXEL_MEM raises. -/
theorem exec_pixelMem_of_coords_error {s : State} {xa ya b : Byte} {c : Color} {r : Raised} (hx : xa ≠ 0xFF#8)
    (hy : ya ≠ 0xFF#8) (hc : paramColor s.params b = some c) (h : pixelMemCoords xa ya s = .error r) :
    exec (.pixelMem xa ya b) s = .next (s.faultedBy (.pixelMem xa ya b) r.kind r.reason r.value) := by
  have haddrs : checkAddrs [xa, ya] = .ok () := checkAddrs_of_notMem (by simp [hx.symm, hy.symm])
  have hcolor : colorDecode s.params b = .ok c := colorDecode_eq_ok.2 hc
  have hbind (draw : Nat × Nat → Checked State) : (pixelMemCoords xa ya s >>= draw) = .error r := by simp [h]
  rw [exec_pixelMem]
  apply perform_raises
  simpa [haddrs, hcolor, pixelMemCoords, Instr.length] using
    hbind fun p => if c = .transparent then .ok (s.past 4) else .ok ((s.past 4).setPixel (pixelIndex p.1 p.2) c)

end Sys2Proof.Machine

namespace Sys2Proof.Claims

open Sys2Proof.Machine

/-- Settles O26: each clause is the first check of `pixelMemCoords` that fails. -/
theorem pixelMemCoordinateFaults : Obligations.PixelMemCoordinateFaults := by
  intro s xa ya b c hxa hya hc
  have raises {r : Raised} (h : pixelMemCoords xa ya s = .error r) :=
    exec_pixelMem_of_coords_error hxa hya hc h
  refine ⟨fun hx => ?_, fun hx hy => ?_, fun f hx hy => ?_, fun x hx hneg hy => ?_, fun x f hx hpos hy => ?_,
    fun x y hx hpos hy hneg => ?_⟩
  · exact raises (r := typeMismatch _) (by simp [pixelMemCoords, readNumeric_eq, hx])
  · exact raises (r := typeMismatch _) (by simp [pixelMemCoords, readNumeric_eq, hx, hy])
  · exact raises (r := raiseUnmodelled ..) (by simp [pixelMemCoords, readNumeric_eq, hx, hy])
  · exact raises (r := raiseUnmodelled ..)
      (by simp [pixelMemCoords, readNumeric_eq, hx, hy, coord_int_of_neg hneg])
  · exact raises (r := raiseUnmodelled ..)
      (by simp [pixelMemCoords, readNumeric_eq, hx, hy, coord_int_of_nonneg hpos])
  · exact raises (r := raiseUnmodelled ..)
      (by simp [pixelMemCoords, readNumeric_eq, hx, hy, coord_int_of_nonneg hpos, coord_int_of_neg hneg])

end Sys2Proof.Claims
end

section
/-! PROOFS. The operands of SPRITE_BLIT (O29): the eight source cells in turn, then the origin (R123). -/

namespace Sys2Proof.Machine

/-- The slots of an octet are its list, in order (R59). -/
theorem octet_toList_getElem {o : Octet} {k : Nat} (hk : k < o.toList.length) : o.toList[k] = slotOf o k := by
  change k < 8 at hk
  interval_cases k <;> rfl

variable {s : State} {l : List Byte}

/-- The first source that is not Bytes decides what reading the sources raises (R123). -/
theorem readRows_first_error {k : Nat} (hk : k < l.length)
    (hpre : ∀ j (hj : j < k), ∃ b, s.cell l[j] = .bytes b) (hbad : ∀ b, s.cell l[k] ≠ .bytes b) :
    readRows s l = .error (typeMismatch (s.cell l[k])) := by
  induction l generalizing k with
  | nil => cases hk
  | cons a rest ih =>
    cases k with
    | zero =>
      have ha : readBytes s a = .error (typeMismatch (s.cell a)) := readBytes_of_not_bytes hbad
      simp [readRows, ha]
    | succ k =>
      obtain ⟨b, ha⟩ : ∃ b, s.cell a = .bytes b := hpre 0 k.succ_pos
      have hrest := ih (k := k) (Nat.lt_of_succ_lt_succ hk) (fun j hj => hpre (j + 1) (Nat.succ_lt_succ hj)) hbad
      simp [readRows, readBytes_eq_ok.2 ha, hrest]

theorem readRows_of_all_bytes (h : ∀ a ∈ l, ∃ b, s.cell a = .bytes b) : ∃ rows, readRows s l = .ok rows := by
  induction l with
  | nil => exact ⟨[], rfl⟩
  | cons a rest ih =>
    obtain ⟨⟨b, ha⟩, hrest⟩ := List.forall_mem_cons.1 h
    obtain ⟨rows, hrows⟩ := ih hrest
    exact ⟨b :: rows, by simp [readRows, readBytes_eq_ok.2 ha, hrows]⟩

/-! ### The eight sources of a sprite, slot by slot -/

variable {srcs : Octet}

theorem readRows_slot_error {k : Nat} (hk : k < 8) (hpre : ∀ j < k, ∃ b, s.cell (slotOf srcs j) = .bytes b)
    (hbad : ∀ b, s.cell (slotOf srcs k) ≠ .bytes b) :
    readRows s srcs.toList = .error (typeMismatch (s.cell (slotOf srcs k))) := by
  simp only [← octet_toList_getElem hk] at hbad ⊢
  refine readRows_first_error hk (fun j hj => ?_) hbad
  simpa only [octet_toList_getElem] using hpre j hj

theorem readRows_of_bytes (h : ∀ k < 8, ∃ b, s.cell (slotOf srcs k) = .bytes b) :
    ∃ rows, readRows s srcs.toList = .ok rows := by
  refine readRows_of_all_bytes fun a ha => ?_
  obtain ⟨k, hk, rfl⟩ := List.getElem_of_mem ha
  rw [octet_toList_getElem hk]
  exact h k hk

end Sys2Proof.Machine

namespace Sys2Proof.Claims

open Sys2Proof.Machine

/-- Settles O29: the sources are read in turn, then the x and the y origin. -/
theorem spriteBlitOperandFaults : Obligations.SpriteBlitOperandFaults := by
  intro s srcs xa ya hm
  have haddrs : checkAddrs (srcs.toList ++ [xa, ya]) = .ok () := checkAddrs_of_notMem hm
  rw [exec_spriteBlit]
  refine ⟨fun k hk hpre hbad => ?_, fun hsrcs hx => ?_, fun hsrcs ⟨x, hx⟩ hy => ?_⟩
  · have hrows := readRows_slot_error hk hpre hbad
    exact perform_raises (r := typeMismatch _) (by simp [haddrs, hrows])
  · obtain ⟨rows, hrows⟩ := readRows_of_bytes hsrcs
    exact perform_raises (r := typeMismatch _) (by simp [haddrs, hrows, readInt_of_not_int hx])
  · obtain ⟨rows, hrows⟩ := readRows_of_bytes hsrcs
    exact perform_raises (r := typeMismatch _)
      (by simp [haddrs, hrows, readInt_eq_ok.2 hx, readInt_of_not_int hy])

end Sys2Proof.Claims
end

section
/-! PROOFS. Arithmetic and comparison on cells that hold no number (O39): every form reads its operands by
`numericOperands` before anything else. -/

namespace Sys2Proof.Machine

variable {s : State} {l r d : Byte} {e : Raised}

theorem numericOperands_lhs_not_numeric (ha : 0xFF#8 ∉ [l, r, d]) (hl : (s.cell l).numeric = false) :
    numericOperands s l r d = .error (typeMismatch (s.cell l)) := by
  simp [numericOperands, checkAddrs_of_notMem ha, readNumeric_eq, hl]

theorem numericOperands_rhs_not_numeric (ha : 0xFF#8 ∉ [l, r, d]) (hl : (s.cell l).numeric = true)
    (hr : (s.cell r).numeric = false) : numericOperands s l r d = .error (typeMismatch (s.cell r)) := by
  simp [numericOperands, checkAddrs_of_notMem ha, readNumeric_eq, hl, hr]

theorem intOperands_error (h : numericOperands s l r d = .error e) : intOperands s l r d = .error e := by
  simp [intOperands, h]

theorem floatOperands_error (h : numericOperands s l r d = .error e) : floatOperands s l r d = .error e := by
  simp [floatOperands, h]

end Sys2Proof.Machine

namespace Sys2Proof.Claims

open Sys2Proof.Machine

/-- An effect that raises whatever its numeric operands raise. -/
def ReadsNumericOperands (f : Byte → Byte → Byte → State → Checked State) : Prop :=
  ∀ l r d s e, numericOperands s l r d = .error e → f l r d s = .error e

theorem ReadsNumericOperands.floatArith (op : Word → Word → Option Word) :
    ReadsNumericOperands (Machine.floatArith op) := by
  intro l r d s e h
  simp [Machine.floatArith, floatOperands_error h]

theorem ReadsNumericOperands.intArith (op : Int → Int → Int) : ReadsNumericOperands (Machine.intArith op) := by
  intro l r d s e h
  simp [Machine.intArith, intOperands_error h]

theorem ReadsNumericOperands.compareInto (onInt : Int → Int → Bool) (onFloat : Word → Word → Bool) :
    ReadsNumericOperands (Machine.compareInto onInt onFloat) := by
  intro l r d s e h
  simp [Machine.compareInto, h]

/-- An instruction that performs such an effect faults on operands that hold no number, lhs before rhs. -/
theorem numericFaults_of_reads {mk : Byte → Byte → Byte → Instr}
    {f : Byte → Byte → Byte → State → Checked State} (hf : ReadsNumericOperands f)
    (he : ∀ l r d s, exec (mk l r d) s = s.perform (mk l r d) (f l r d)) : numericFaults mk := by
  rintro s l r d ⟨hl, hr, hd⟩
  have ha : 0xFF#8 ∉ [l, r, d] := by simp [hl.symm, hr.symm, hd.symm]
  rw [he]
  refine ⟨fun hvl => ?_, fun hvl hvr => ?_⟩
  · exact perform_raises (r := typeMismatch _) (hf _ _ _ _ _ (numericOperands_lhs_not_numeric ha hvl))
  · exact perform_raises (r := typeMismatch _) (hf _ _ _ _ _ (numericOperands_rhs_not_numeric ha hvl hvr))

/-- Settles O39: all ten instructions read their operands first; `DIV` alone has an effect of its own. -/
theorem numericReadsRejectOtherTags : Obligations.NumericReadsRejectOtherTags := by
  refine ⟨numericFaults_of_reads (.floatArith _) exec_fadd, numericFaults_of_reads (.floatArith _) exec_fsub,
    numericFaults_of_reads (.floatArith _) exec_fmul, numericFaults_of_reads (.floatArith _) exec_fdiv,
    numericFaults_of_reads (.intArith _) exec_add, numericFaults_of_reads (.intArith _) exec_sub,
    numericFaults_of_reads (.intArith _) exec_mul, numericFaults_of_reads ?div exec_div,
    numericFaults_of_reads (.compareInto _ _) exec_gt, numericFaults_of_reads (.compareInto _ _) exec_lt⟩
  case div =>
    intro l r d s e h
    simp [intOperands_error h]

end Sys2Proof.Claims
end

section
/-! PROOFS. ARRAY_WRITE on an array cell (O45). -/

namespace Sys2Proof.Machine

/-- A read of a slot after a write of one (R144). -/
theorem slotOf_setSlot {k n : Nat} (hk : k < 8) (hn : n < 8) (o : Octet) (b : Byte) :
    slotOf (setSlot o k b) n = if n = k then b else slotOf o n := by
  interval_cases k <;> interval_cases n <;> rfl

/-- ARRAY_WRITE of a slot that exists, on a cell that is read as an array. -/
theorem exec_arrayWrite_of_array {s : State} {a i v : Byte} {w : CellValue} (ha : a ≠ 0xFF#8) (hi : i.toNat ≤ 7)
    (hw : readArray s a = .ok w) :
    exec (.arrayWrite a i v) s = .next ((s.past 4).setCell a (writeSlot w i.toNat v)) := by
  rw [exec_arrayWrite]
  apply perform_completes
  simp [checkAddr_of_ne ha, not_lt.2 hi, Instr.length, hw]

end Sys2Proof.Machine

namespace Sys2Proof.Claims

open Sys2Proof.Machine

/-- Settles O45: the new octet is the old one with slot `i` set. -/
theorem arrayWriteReplacesOneSlot : Obligations.ArrayWriteReplacesOneSlot := by
  intro s a i v w ha hi
  have hi8 : i.toNat < 8 := Nat.lt_succ_of_le hi
  refine ⟨setSlot w i.toNat v, ?_, fun n hn hne => ?_, fun h => ?_, fun h => ?_⟩
  · simp [slotOf_setSlot hi8 hi8]
  · simp [slotOf_setSlot hi8 hn, hne]
  · have hread : readArray s a = .ok (.bytes w) := readArray_eq_ok.2 ⟨h, .inr ⟨w, rfl⟩⟩
    exact ⟨_, exec_arrayWrite_of_array ha hi hread, writesCell_past_setCell ..⟩
  · have hread : readArray s a = .ok (.str w) := readArray_eq_ok.2 ⟨h, .inl ⟨w, rfl⟩⟩
    exact ⟨_, exec_arrayWrite_of_array ha hi hread, writesCell_past_setCell ..⟩

end Sys2Proof.Claims
end

section
/-! PROOFS. The decoder and the encoder are inverse to each other (O4, O5), and decode the words of the encoding
tables (O6). -/

namespace Sys2Proof

/-! ### Eight bytes and the word they hold (R58) -/

/-- The eight bytes of a word, put together again, are the word. -/
@[simp] theorem le64_bytes64 (w : Word) : le64 (bytes64 w) = w := by
  apply BitVec.eq_of_toNat_eq
  simp only [le64, bytes64, byteOfNat, BitVec.toNat_ofNat]
  omega

/-- The word of eight bytes has exactly these bytes. -/
@[simp] theorem bytes64_le64 (o : Octet) : bytes64 (le64 o) = o := by
  obtain ⟨b0, b1, b2, b3, b4, b5, b6, b7⟩ := o
  simp only [bytes64, byteOfNat, le64, Octet.mk.injEq, ← BitVec.toNat_inj, BitVec.toNat_ofNat]
  omega

/-! ### Decoding an encoding -/

/-- The operand bytes of an instruction, after its opcode byte, decode to it and leave what follows (R70, R72). -/
theorem decodeOperands_operandBytes (i : Instr) (rest : List Byte) :
    decodeOperands i.opcode (i.operandBytes ++ rest) = .ok (i, rest) := by
  cases i with
  | tjmp a o => exact congrArg (fun w => Except.ok (Instr.tjmp a w, rest)) (le64_bytes64 o)
  | fjmp a o => exact congrArg (fun w => Except.ok (Instr.fjmp a w, rest)) (le64_bytes64 o)
  | jmp o => exact congrArg (fun w => Except.ok (Instr.jmp w, rest)) (le64_bytes64 o)
  | _ => rfl

/-! ### Encoding what was decoded: one lemma per format (R71)

That an instruction is written in the format holds by `rfl`, which the lemmas try when no proof is given. -/

variable {op : Byte} {bs rest : List Byte} {i : Instr}

theorem eq_encode_of_formatA {mk : Byte → Instr} (h : formatA op mk bs = .ok (i, rest))
    (hmk : ∀ a, encode (mk a) = [op, a] := by intros; rfl) : op :: bs = encode i ++ rest := by
  unfold formatA at h
  split at h <;> cases h
  simp [hmk]

theorem eq_encode_of_formatAA {mk : Byte → Byte → Instr} (h : formatAA op mk bs = .ok (i, rest))
    (hmk : ∀ a b, encode (mk a b) = [op, a, b] := by intros; rfl) : op :: bs = encode i ++ rest := by
  unfold formatAA at h
  split at h <;> cases h
  simp [hmk]

theorem eq_encode_of_formatAAA {mk : Byte → Byte → Byte → Instr} (h : formatAAA op mk bs = .ok (i, rest))
    (hmk : ∀ a b c, encode (mk a b c) = [op, a, b, c] := by intros; rfl) : op :: bs = encode i ++ rest := by
  unfold formatAAA at h
  split at h <;> cases h
  simp [hmk]

theorem eq_encode_of_formatJ {mk : Word → Instr} (h : formatJ op mk bs = .ok (i, rest))
    (hmk : ∀ o, encode (mk o) = op :: (bytes64 o).toList := by intros; rfl) : op :: bs = encode i ++ rest := by
  unfold formatJ at h
  split at h <;> cases h
  simp [hmk, Octet.toList]

theorem eq_encode_of_formatCJ {mk : Byte → Word → Instr} (h : formatCJ op mk bs = .ok (i, rest))
    (hmk : ∀ a o, encode (mk a o) = op :: a :: (bytes64 o).toList := by intros; rfl) :
    op :: bs = encode i ++ rest := by
  unfold formatCJ at h
  split at h <;> cases h
  simp [hmk, Octet.toList]

theorem eq_encode_of_formatV {mk : Byte → Octet → Byte → Instr} (h : formatV op mk bs = .ok (i, rest))
    (hmk : ∀ t d dest, encode (mk t d dest) = op :: t :: (d.toList ++ [dest]) := by intros; rfl) :
    op :: bs = encode i ++ rest := by
  unfold formatV at h
  split at h <;> cases h
  simp [hmk, Octet.toList]

theorem eq_encode_of_formatS {mk : Octet → Byte → Byte → Instr} (h : formatS op mk bs = .ok (i, rest))
    (hmk : ∀ srcs x y, encode (mk srcs x y) = op :: (srcs.toList ++ [x, y]) := by intros; rfl) :
    op :: bs = encode i ++ rest := by
  unfold formatS at h
  split at h <;> cases h
  simp [hmk, Octet.toList]

/-- Each opcode byte reads the format its instruction is written in, and no byte is dropped (R70, R85). -/
theorem eq_encode_of_decodeOperands (h : decodeOperands op bs = .ok (i, rest)) : op :: bs = encode i ++ rest := by
  unfold decodeOperands at h
  split at h
  · cases h; rfl
  · exact eq_encode_of_formatAAA h
  · exact eq_encode_of_formatAAA h
  · exact eq_encode_of_formatS h
  · exact eq_encode_of_formatAAA h
  · exact eq_encode_of_formatAAA h
  · exact eq_encode_of_formatAAA h
  · exact eq_encode_of_formatAAA h
  · exact eq_encode_of_formatAAA h
  · exact eq_encode_of_formatAAA h
  · exact eq_encode_of_formatAAA h
  · exact eq_encode_of_formatAAA h
  · exact eq_encode_of_formatAA h
  · exact eq_encode_of_formatAAA h
  · exact eq_encode_of_formatAAA h
  · exact eq_encode_of_formatV h
  · exact eq_encode_of_formatV h
  · exact eq_encode_of_formatAAA h
  · exact eq_encode_of_formatCJ h
  · exact eq_encode_of_formatCJ h
  · exact eq_encode_of_formatJ h
  · exact eq_encode_of_formatA h
  · exact eq_encode_of_formatAA h
  · cases h; rfl
  · exact eq_encode_of_formatA h
  · cases h

/-- Bytes decode to an instruction exactly when they are its encoding and what is left (R70, R85). -/
theorem decode_eq_ok : decode bs = .ok (i, rest) ↔ bs = encode i ++ rest := by
  constructor
  · intro h
    cases bs with
    | nil => cases h
    | cons op operands => exact eq_encode_of_decodeOperands h
  · rintro rfl
    exact decodeOperands_operandBytes i rest

end Sys2Proof

namespace Sys2Proof.Claims

/-- Settles O4: every format is read back as it is written, a jump offset byte by byte. -/
theorem decodeOfEncodeIsIdentity : Obligations.DecodeOfEncodeIsIdentity :=
  fun _ _ => decode_eq_ok.2 rfl

/-- Settles O5: the decoder gives each opcode the format of its instruction, and each format keeps all its bytes. -/
theorem decodedBytesAreTheEncoding : Obligations.DecodedBytesAreTheEncoding :=
  fun _ _ _ => decode_eq_ok.1

/-- Settles O6: each word is the encoding of its instruction, followed by the bytes left over. -/
theorem specWordsDecode : Obligations.SpecWordsDecode :=
  ⟨decode_eq_ok.2 rfl, decode_eq_ok.2 rfl, decode_eq_ok.2 rfl, decode_eq_ok.2 rfl, decode_eq_ok.2 rfl,
    decode_eq_ok.2 rfl, decode_eq_ok.2 rfl, decode_eq_ok.2 rfl, decode_eq_ok.2 rfl⟩

end Sys2Proof.Claims
end

section
/-! PROOFS. The colour, key and type tag tables (O22), and what the instructions that hold such a byte do with a
mapped (O32) and an unmapped one (O52). -/

namespace Sys2Proof.Machine

/-! ### Looking a row up by its key -/

section Table

variable {α β : Type} [DecidableEq β] {key : α → β} {table : List α}

/-- In a table whose keys are distinct, the key of a row finds that row. -/
theorem find?_key_of_mem (hkeys : (table.map key).Nodup) {row : α} (hrow : row ∈ table) :
    (table.find? fun x => key x == key row) = some row := by
  cases hfind : table.find? fun x => key x == key row with
  | none =>
    have hno := List.find?_eq_none.1 hfind row hrow
    simp at hno
  | some x =>
    have hkey : key x = key row := by simpa using List.find?_some hfind
    rw [List.inj_on_of_nodup_map hkeys (List.mem_of_find?_eq_some hfind) hrow hkey]

theorem find?_key_eq_none {b : β} : (table.find? fun x => key x == b) = none ↔ b ∉ table.map key := by
  simp

end Table

/-! ### Lookups in the three tables (R80, R82, R83) -/

variable {P : Params} {b : Byte}

theorem paramColor_code (hcodes : (P.colors.map ColorRow.code).Nodup) {row : ColorRow} (hrow : row ∈ P.colors) :
    paramColor P row.code = some row.color := by
  simp [paramColor, find?_key_of_mem hcodes hrow]

theorem paramKey_code (hcodes : (P.keys.map Prod.fst).Nodup) {row : Byte × Key} (hrow : row ∈ P.keys) :
    paramKey P row.1 = some row.2 := by
  simp [paramKey, find?_key_of_mem hcodes hrow]

theorem paramTag_code (hcodes : (P.tags.map Prod.fst).Nodup) {row : Byte × Tag} (hrow : row ∈ P.tags) :
    paramTag P row.1 = some row.2 := by
  simp [paramTag, find?_key_of_mem hcodes hrow]

theorem paramColor_eq_none : paramColor P b = none ↔ b ∉ P.colors.map ColorRow.code := by
  rw [paramColor, Option.map_eq_none_iff, find?_key_eq_none]

theorem paramKey_eq_none : paramKey P b = none ↔ b ∉ P.keys.map Prod.fst := by
  rw [paramKey, Option.map_eq_none_iff, find?_key_eq_none]

theorem paramTag_eq_none : paramTag P b = none ↔ b ∉ P.tags.map Prod.fst := by
  rw [paramTag, Option.map_eq_none_iff, find?_key_eq_none]

/-! ### What an unmapped byte raises -/

theorem colorDecode_unmapped (h : paramColor P b = none) :
    colorDecode P b = .error (raiseKind .unknownColorCode (.byte b)) := by
  simp [colorDecode, h]

theorem keyDecode_unmapped (h : paramKey P b = none) :
    keyDecode P b = .error (raiseKind .unknownKeyCode (.byte b)) := by
  simp [keyDecode, h]

theorem tagDecode_unmapped (h : paramTag P b = none) :
    tagDecode P b = .error (raiseKind .unknownTypeTag (.byte b)) := by
  simp [tagDecode, h]

/-- The tag of a literal is decoded first (R142). -/
theorem literal_unmapped {s : State} (h : paramTag s.params b = none) (p : Octet) (d : Byte) :
    literal b p d s = .error (raiseKind .unknownTypeTag (.byte b)) := by
  simp [literal, tagDecode_unmapped h]

/-! ### The poll of KEY -/

/-- Polling for a key past the instruction consumes one answer and logs the call (R152). -/
theorem past_pollKey (s : State) (n : Nat) (k : Key) :
    (s.past n).pollKey k =
      { s.answered with
        cursor := s.cursor + BitVec.ofNat 64 n
        log := .isKeyPressed k s.nextAnswer :: s.log } := by
  rcases s with ⟨_, _, _, _, _, _, _, _, _, _, _ | _, _⟩ <;> rfl

@[simp] theorem past_nextAnswer (s : State) (n : Nat) : (s.past n).nextAnswer = s.nextAnswer := rfl

/-- KEY with a mapped key and a valid destination (R152). -/
theorem exec_key_of_mapped {s : State} {d : Byte} {k : Key} (hk : paramKey s.params b = some k) (hd : d ≠ 0xFF#8) :
    exec (.key b d) s = .next (((s.past 3).pollKey k).setCell d (truth s.nextAnswer)) := by
  rw [exec_key]
  apply perform_completes
  simp [keyDecode_eq_ok.2 hk, checkAddr_of_ne hd, Instr.length]

end Sys2Proof.Machine

namespace Sys2Proof.Claims

open Sys2Proof.Machine

/-- Settles O22: a lookup finds the row of its byte because the bytes of a table are distinct. -/
theorem codesDecodeByTheirTables : Obligations.CodesDecodeByTheirTables := by
  rintro P ⟨-, hcolors, -, -, -, hkeys, -, -, htags, -⟩
  exact ⟨fun _ hrow => colorDecode_eq_ok.2 (paramColor_code hcolors hrow),
    fun _ hb => colorDecode_unmapped (paramColor_eq_none.2 hb),
    fun _ hrow => keyDecode_eq_ok.2 (paramKey_code hkeys hrow),
    fun _ hb => keyDecode_unmapped (paramKey_eq_none.2 hb),
    fun _ hrow => tagDecode_eq_ok.2 (paramTag_code htags hrow),
    fun _ hb => tagDecode_unmapped (paramTag_eq_none.2 hb)⟩

/-- Settles O32: past the instruction, KEY polls the host and writes the answer to its destination. -/
theorem keySamplesTheHost : Obligations.KeySamplesTheHost := by
  intro s b d k hk hd
  refine ⟨_, exec_key_of_mapped hk hd, ?_, ?_, fun a ha => ?_⟩
  · rw [past_pollKey]
    rfl
  · simp [truth]
  · simp [ha]

/-- Settles O52: the byte is decoded before the first check that could fail otherwise. -/
theorem unmappedCodesFault : Obligations.UnmappedCodesFault := by
  intro s b
  refine ⟨fun hc => ⟨fun x y => ?_, fun x y hx hy => ?_, ?_⟩, fun hk d => ?_, fun ht p d => ⟨?_, ?_⟩⟩
  · rw [exec_pixelLit]
    exact perform_raises (r := raiseKind ..) (by simp [colorDecode_unmapped hc])
  · have haddrs : checkAddrs [x, y] = .ok () := checkAddrs_of_notMem (by simp [hx.symm, hy.symm])
    rw [exec_pixelMem]
    exact perform_raises (r := raiseKind ..) (by simp [haddrs, colorDecode_unmapped hc])
  · rw [exec_clear]
    exact perform_raises (r := raiseKind ..) (by simp [colorDecode_unmapped hc])
  · rw [exec_key]
    exact perform_raises (r := raiseKind ..) (by simp [keyDecode_unmapped hk])
  · rw [exec_varSet]
    exact perform_raises (r := raiseKind ..) (by simp [literal_unmapped (s := s.past _) ht])
  · rw [exec_letCell]
    exact perform_raises (r := raiseKind ..) (by simp [literal_unmapped (s := s.past _) ht])

end Sys2Proof.Claims
end

section
/-! PROOFS. The illegal opcode bytes (O7): the decoder rejects a byte as unknown exactly when R86 lists it, and a RUN
step that fetches one faults. -/

namespace Sys2Proof

open Sys2Proof.Claims

/-! ### No format rejects its opcode -/

variable {op op' : Byte} {bs : List Byte}

@[simp] theorem formatA_ne_unknownOpcode {mk : Byte → Instr} : formatA op mk bs ≠ .error (.unknownOpcode op') := by
  unfold formatA
  split <;> simp

@[simp] theorem formatAA_ne_unknownOpcode {mk : Byte → Byte → Instr} :
    formatAA op mk bs ≠ .error (.unknownOpcode op') := by
  unfold formatAA
  split <;> simp

@[simp] theorem formatAAA_ne_unknownOpcode {mk : Byte → Byte → Byte → Instr} :
    formatAAA op mk bs ≠ .error (.unknownOpcode op') := by
  unfold formatAAA
  split <;> simp

@[simp] theorem formatJ_ne_unknownOpcode {mk : Word → Instr} : formatJ op mk bs ≠ .error (.unknownOpcode op') := by
  unfold formatJ
  split <;> simp

@[simp] theorem formatCJ_ne_unknownOpcode {mk : Byte → Word → Instr} :
    formatCJ op mk bs ≠ .error (.unknownOpcode op') := by
  unfold formatCJ
  split <;> simp

@[simp] theorem formatV_ne_unknownOpcode {mk : Byte → Octet → Byte → Instr} :
    formatV op mk bs ≠ .error (.unknownOpcode op') := by
  unfold formatV
  split <;> simp

@[simp] theorem formatS_ne_unknownOpcode {mk : Octet → Byte → Byte → Instr} :
    formatS op mk bs ≠ .error (.unknownOpcode op') := by
  unfold formatS
  split <;> simp

/-! ### The illegal bytes (R86) -/

/-- The decoder knows every byte outside the ranges of R86 and none inside them. -/
theorem decodeOperands_eq_unknownOpcode :
    decodeOperands op bs = .error (.unknownOpcode op) ↔ illegalOpcode op.toNat := by
  unfold decodeOperands
  split
  case h_26 => -- a byte that is none of the 25 opcodes
    have hlt : op.toNat < 256 := op.isLt
    simp only [← BitVec.toNat_inj, BitVec.toNat_ofNat, Nat.reducePow, Nat.reduceMod, imp_false] at *
    simp only [illegalOpcode, true_iff]
    omega
  all_goals simp -- an opcode: its format does not reject it, and R86 does not list it

end Sys2Proof

namespace Sys2Proof.Machine

/-! ### Fetching in a RUN step -/

variable {s : State} {op : Byte}

/-- The poll of the host moves neither the cursor nor the program (R103). -/
@[simp] theorem pollOpen_fetch (s : State) : s.pollOpen.fetch = decode s.fetchBytes := by
  simp [State.fetch, State.fetchBytes, State.body]

theorem stepRun_unknownOpcode (hopen : s.nextAnswer = true) (hop : decode s.fetchBytes = .error (.unknownOpcode op)) :
    stepRun s = .next (s.pollOpen.takeBodyFault op (raiseKind .unknownOpcode (.byte op))) := by
  simp [stepRun, hopen, hop]

end Sys2Proof.Machine

namespace Sys2Proof.Claims

open Sys2Proof.Machine

/-- Settles O7: the step takes the fault of the decoder's answer, in the state after the poll. -/
theorem illegalOpcodesFault : Obligations.IllegalOpcodesFault := by
  refine ⟨fun _ _ => decodeOperands_eq_unknownOpcode, by rfl, ?_⟩
  rintro s op rest ⟨hrun, hopen⟩ hfetch hop
  have hdecode : decode s.fetchBytes = .error (.unknownOpcode op) := by
    rw [hfetch]
    exact decodeOperands_eq_unknownOpcode.2 hop
  calc step s = stepRun s := by simp [step, hrun]
    _ = .next (s.pollOpen.takeBodyFault op (raiseKind .unknownOpcode (.byte op))) :=
      stepRun_unknownOpcode hopen hdecode
    _ = _ := by simp [State.takeBodyFault, State.takeFault, raiseKind]

end Sys2Proof.Claims
end

section
/-! PROOFS. What a well-formed instruction can raise (O54): every operand form, every condition and every effect
yields a value or a fault on the data in cells or on a position. -/

namespace Sys2Proof.Machine

/-! ### Well-formed instructions pass the checks of their operand bytes -/

/-- A well-formed instruction has no address byte 0xFF (R54). -/
theorem addrsOk_iff {i : Instr} : i.addrsOk = true ↔ 0xFF#8 ∉ i.addrs := by
  simp only [Instr.addrsOk, List.all_eq_true, decide_eq_true_eq]
  constructor
  · intro h hm
    exact absurd (h _ hm) (by decide)
  · intro h a ha
    exact addr_lt fun heq => h (heq ▸ ha)

theorem wellFormed_iff {P : Params} {i : Instr} :
    i.wellFormed P = true ↔ 0xFF#8 ∉ i.addrs ∧ i.indexOk = true ∧ i.codesOk P = true := by
  simp only [Instr.wellFormed, Bool.and_eq_true, addrsOk_iff, and_assoc]

/-! ### Faults on data -/

/-- A fault that a well-formed instruction `i` may raise: on the data in cells or on a position, and in SPRITE_BLIT,
whose colours stand in cells, also on a colour byte. -/
def Raised.OnData (i : Instr) (r : Raised) : Prop :=
  r.kind = .typeMismatch ∨ r.kind = .divideByZero ∨
    (r.kind = .unmodelled ∧ r.reason ≠ some .addressOutOfRange) ∨
    (r.kind = .unknownColorCode ∧ ∃ srcs x y, i = .spriteBlit srcs x y)

variable {i : Instr} {s : State}

theorem faultedBy_inj {k k' : FaultKind} {r r' : Option UnmodelledReason} {v v' : FaultValue} :
    s.faultedBy i k r v = s.faultedBy i k' r' v' ↔ k = k' ∧ r = r' ∧ v = v' := by
  simp [State.faultedBy]

theorem onData_typeMismatch (v : CellValue) : (typeMismatch v).OnData i :=
  .inl rfl

theorem onData_unmodelled {reason : UnmodelledReason} (h : reason ≠ .addressOutOfRange) (v : FaultValue) :
    (raiseUnmodelled reason v).OnData i :=
  .inr (.inr (.inl ⟨rfl, fun heq => h (Option.some.inj heq)⟩))

theorem onData_mixedNumeric (vl vr : CellValue) : (mixedNumeric vl vr).OnData i :=
  onData_unmodelled (by simp) _

theorem onData_framebufferRange (x y : Int) : (framebufferRange x y).OnData i :=
  onData_unmodelled (by simp) _

/-! ### What a check of the instruction `i` yields -/

/-- The check answers a value with the property `q`, or raises a fault on data. -/
def Yields {α : Type} (i : Instr) (q : α → Prop) : Checked α → Prop
  | .ok a => q a
  | .error r => r.OnData i

/-- The check raises faults on data only. -/
abbrev Checks {α : Type} (i : Instr) (x : Checked α) : Prop :=
  Yields i (fun _ => True) x

section Rules

variable {α β : Type} {q : β → Prop}

theorem Checks.of_ok {x : Checked α} {a : α} (h : x = .ok a) : Checks i x :=
  h ▸ trivial

theorem Checks.bind {x : Checked α} {f : α → Checked β} (hx : Checks i x) (hf : ∀ a, Yields i q (f a)) :
    Yields i q (x >>= f) := by
  cases x with
  | ok a => exact hf a
  | error r => exact hx

theorem Yields.ite {p : Prop} [Decidable p] {x y : Checked β} (hx : Yields i q x) (hy : Yields i q y) :
    Yields i q (if p then x else y) := by
  split
  · exact hx
  · exact hy

end Rules

/-! ### Operand forms -/

theorem checks_checkAddrs {l : List Byte} (h : 0xFF#8 ∉ l) : Checks i (checkAddrs l) :=
  .of_ok (checkAddrs_of_notMem h)

theorem checks_checkAddr {a : Byte} (h : 0xFF#8 ∉ [a]) : Checks i (checkAddr a) :=
  .of_ok (checkAddr_of_ne (List.ne_of_not_mem_cons h).symm)

theorem checks_colorDecode {P : Params} {b : Byte} (h : b ∈ P.colors.map ColorRow.code) :
    Checks i (colorDecode P b) := by
  cases hc : paramColor P b with
  | some c => exact .of_ok (colorDecode_eq_ok.2 hc)
  | none => exact absurd h (paramColor_eq_none.1 hc)

theorem checks_keyDecode {P : Params} {b : Byte} (h : b ∈ P.keys.map Prod.fst) : Checks i (keyDecode P b) := by
  cases hk : paramKey P b with
  | some k => exact .of_ok (keyDecode_eq_ok.2 hk)
  | none => exact absurd h (paramKey_eq_none.1 hk)

theorem checks_tagDecode {P : Params} {b : Byte} (h : b ∈ P.tags.map Prod.fst) : Checks i (tagDecode P b) := by
  cases ht : paramTag P b with
  | some t => exact .of_ok (tagDecode_eq_ok.2 ht)
  | none => exact absurd h (paramTag_eq_none.1 ht)

theorem checks_literal {b d : Byte} (hb : b ∈ s.params.tags.map Prod.fst) (hd : 0xFF#8 ∉ [d]) (p : Octet) :
    Checks i (literal b p d s) :=
  (checks_tagDecode hb).bind fun _ => (checks_checkAddr hd).bind fun _ => trivial

theorem checks_readInt (a : Byte) : Checks i (readInt s a) := by
  unfold readInt
  split
  · trivial
  · exact onData_typeMismatch _

theorem checks_readNumeric (a : Byte) : Checks i (readNumeric s a) := by
  unfold readNumeric
  split
  · trivial
  · trivial
  · exact onData_typeMismatch _

theorem checks_readArray (a : Byte) : Checks i (readArray s a) := by
  unfold readArray
  split
  · trivial
  · trivial
  · exact onData_typeMismatch _

theorem checks_readBytes (a : Byte) : Checks i (readBytes s a) := by
  unfold readBytes
  split
  · trivial
  · exact onData_typeMismatch _

theorem checks_readRows (l : List Byte) : Checks i (readRows s l) := by
  induction l with
  | nil => trivial
  | cons a rest ih => exact (checks_readBytes a).bind fun _ => ih.bind fun _ => trivial

theorem checks_coord (v : CellValue) (n : Nat) : Checks i (coord v n) := by
  unfold coord
  split
  · exact .ite (onData_unmodelled (by simp) _) trivial
  · exact onData_unmodelled (by simp) _
  all_goals exact onData_typeMismatch _

theorem checks_narrow (l r v : Int) : Checks i (narrow l r v) :=
  .ite (onData_unmodelled (by simp) _) trivial

theorem checks_compareCells (onInt : Int → Int → Bool) (onFloat : Word → Word → Bool) (v : CellValue × CellValue) :
    Checks i (compareCells onInt onFloat v) := by
  unfold compareCells
  split
  · trivial
  · trivial
  · exact onData_mixedNumeric _ _

/-- A sprite's colours stand in cells, so an unmapped one is a fault on data (R123). -/
theorem checks_spriteScan {srcs : Octet} {xa ya : Byte} (P : Params) (ox oy : Int) (l : List SpriteByte) :
    Checks (.spriteBlit srcs xa ya) (spriteScan P ox oy l) := by
  have hcolor (c : Byte) : Checks (.spriteBlit srcs xa ya) (colorDecode P c) := by
    unfold colorDecode
    split
    · trivial
    · exact .inr (.inr (.inr ⟨rfl, srcs, xa, ya, rfl⟩))
  induction l with
  | nil => trivial
  | cons e rest ih =>
    exact (hcolor e.code).bind fun _ =>
      .ite ih (.ite (ih.bind fun _ => trivial) (onData_framebufferRange _ _))

/-! ### Effects of three addresses; they keep the phase -/

variable {l r d : Byte}

theorem checks_numericOperands (h : 0xFF#8 ∉ [l, r, d]) : Checks i (numericOperands s l r d) :=
  (checks_checkAddrs h).bind fun _ =>
    (checks_readNumeric l).bind fun _ => (checks_readNumeric r).bind fun _ => trivial

theorem checks_intOperands (h : 0xFF#8 ∉ [l, r, d]) : Checks i (intOperands s l r d) := by
  refine (checks_numericOperands h).bind fun v => ?_
  split
  · trivial
  · exact onData_mixedNumeric _ _

theorem checks_floatOperands (h : 0xFF#8 ∉ [l, r, d]) : Checks i (floatOperands s l r d) := by
  refine (checks_numericOperands h).bind fun v => ?_
  split
  · trivial
  · exact onData_mixedNumeric _ _

/-- The effect keeps the phase of `s` or raises a fault on data. -/
abbrev YieldsInPhaseOf (i : Instr) (s : State) (x : Checked State) : Prop :=
  Yields i (fun t => t.phase = s.phase) x

theorem yields_floatArith (op : Word → Word → Option Word) (h : 0xFF#8 ∉ [l, r, d]) :
    YieldsInPhaseOf i s (floatArith op l r d s) :=
  (checks_floatOperands h).bind fun _ => s.setFloat_phase d _

theorem yields_intArith (op : Int → Int → Int) (h : 0xFF#8 ∉ [l, r, d]) :
    YieldsInPhaseOf i s (intArith op l r d s) :=
  (checks_intOperands h).bind fun _ => (checks_narrow _ _ _).bind fun _ => rfl

theorem yields_compareInto (onInt : Int → Int → Bool) (onFloat : Word → Word → Bool) (h : 0xFF#8 ∉ [l, r, d]) :
    YieldsInPhaseOf i s (compareInto onInt onFloat l r d s) :=
  (checks_numericOperands h).bind fun v => (checks_compareCells onInt onFloat v).bind fun _ => rfl

/-! ### Instructions -/

/-- A well-formed instruction is the performing of an effect that keeps the phase or raises a fault on data. -/
theorem exec_eq_perform_yields (hw : i.wellFormed s.params = true) :
    ∃ f, exec i s = s.perform i f ∧ YieldsInPhaseOf i s (f (s.past i.length)) := by
  obtain ⟨haddrs, hindex, hcodes⟩ := wellFormed_iff.1 hw
  cases i with
  | nop => exact ⟨_, exec_nop s, rfl⟩
  | pixelLit x y b =>
    have hcolor : b ∈ s.params.colors.map ColorRow.code := of_decide_eq_true hcodes
    exact ⟨_, exec_pixelLit x y b s, (checks_colorDecode hcolor).bind fun _ =>
      .ite rfl (.ite (onData_framebufferRange _ _) rfl)⟩
  | pixelMem xa ya b =>
    have hcolor : b ∈ s.params.colors.map ColorRow.code := of_decide_eq_true hcodes
    exact ⟨_, exec_pixelMem xa ya b s, (checks_checkAddrs haddrs).bind fun _ =>
      (checks_colorDecode hcolor).bind fun _ =>
      (checks_readNumeric xa).bind fun vx => (checks_readNumeric ya).bind fun vy =>
      (checks_coord vx _).bind fun _ => (checks_coord vy _).bind fun _ => .ite rfl rfl⟩
  | spriteBlit srcs xa ya =>
    exact ⟨_, exec_spriteBlit srcs xa ya s, (checks_checkAddrs haddrs).bind fun _ => (checks_readRows _).bind fun _ =>
      (checks_readInt xa).bind fun _ => (checks_readInt ya).bind fun _ =>
      (checks_spriteScan _ _ _ _).bind fun px => (s.past 11).setPixels_phase px⟩
  | fdiv l r d => exact ⟨_, exec_fdiv l r d s, yields_floatArith _ haddrs⟩
  | fsub l r d => exact ⟨_, exec_fsub l r d s, yields_floatArith _ haddrs⟩
  | fadd l r d => exact ⟨_, exec_fadd l r d s, yields_floatArith _ haddrs⟩
  | fmul l r d => exact ⟨_, exec_fmul l r d s, yields_floatArith _ haddrs⟩
  | div l r d =>
    exact ⟨_, exec_div l r d s, (checks_intOperands haddrs).bind fun _ =>
      .ite (.inr (.inl rfl)) ((checks_narrow _ _ _).bind fun _ => rfl)⟩
  | sub l r d => exact ⟨_, exec_sub l r d s, yields_intArith _ haddrs⟩
  | add l r d => exact ⟨_, exec_add l r d s, yields_intArith _ haddrs⟩
  | mul l r d => exact ⟨_, exec_mul l r d s, yields_intArith _ haddrs⟩
  | notCell a d => exact ⟨_, exec_notCell a d s, (checks_checkAddrs haddrs).bind fun _ => rfl⟩
  | gt l r d => exact ⟨_, exec_gt l r d s, yields_compareInto _ _ haddrs⟩
  | lt l r d => exact ⟨_, exec_lt l r d s, yields_compareInto _ _ haddrs⟩
  | varSet t p d =>
    have htag : t ∈ s.params.tags.map Prod.fst := of_decide_eq_true hcodes
    exact ⟨_, exec_varSet t p d s, (checks_literal htag haddrs p).bind fun _ => rfl⟩
  | letCell t p d =>
    have htag : t ∈ s.params.tags.map Prod.fst := of_decide_eq_true hcodes
    exact ⟨_, exec_letCell t p d s, (checks_literal htag haddrs p).bind fun _ => .ite rfl rfl⟩
  | arrayWrite a n v =>
    have hn : ¬ 7 < n.toNat := not_lt.2 (of_decide_eq_true hindex)
    refine ⟨_, exec_arrayWrite a n v s, (checks_checkAddr haddrs).bind fun _ => ?_⟩
    rw [if_neg hn]
    exact (checks_readArray a).bind fun _ => rfl
  | tjmp a o => exact ⟨_, exec_tjmp a o s, (checks_checkAddr haddrs).bind fun _ => .ite rfl rfl⟩
  | fjmp a o => exact ⟨_, exec_fjmp a o s, (checks_checkAddr haddrs).bind fun _ => .ite rfl rfl⟩
  | jmp o => exact ⟨_, exec_jmp o s, rfl⟩
  | vjmp a => exact ⟨_, exec_vjmp a s, (checks_checkAddr haddrs).bind fun _ => (checks_readInt a).bind fun _ => rfl⟩
  | key b d =>
    have hkey : b ∈ s.params.keys.map Prod.fst := of_decide_eq_true hcodes
    exact ⟨_, exec_key b d s, (checks_keyDecode hkey).bind fun k => (checks_checkAddr haddrs).bind fun _ =>
      (s.past 3).pollKey_phase k⟩
  | render => exact ⟨_, exec_render s, rfl⟩
  | clear b =>
    have hcolor : b ∈ s.params.colors.map ColorRow.code := of_decide_eq_true hcodes
    exact ⟨_, exec_clear b s, (checks_colorDecode hcolor).bind fun _ => rfl⟩

end Sys2Proof.Machine

namespace Sys2Proof.Claims

open Sys2Proof.Machine

/-- Settles O54: an effect that completes keeps the phase, so the fault is one its checks raised. -/
theorem wellFormedInstructionsFaultOnDataOnly : Obligations.WellFormedInstructionsFaultOnDataOnly := by
  intro i s kind reason value hw h hphase
  obtain ⟨f, hexec, hf⟩ := exec_eq_perform_yields hw
  rw [← advance_eq_past] at hf
  rcases perform_cases (hexec.symm.trans h) with hok | ⟨r, herr, heq⟩
  · rw [hok] at hf
    exact absurd hf.symm hphase
  · rw [herr] at hf
    obtain ⟨rfl, rfl, -⟩ := faultedBy_inj.1 heq
    exact hf

end Sys2Proof.Claims
end

section
/-! PROOFS. A header of directives parses directive by directive, so what follows them is read at a directive
position under the configuration they have set (O16 to O18). -/

namespace Sys2Proof.Machine

theorem titleBytes_cons (b : TitleByte) (t : List TitleByte) : titleBytes (b :: t) = b.bytes ++ titleBytes t :=
  List.flatMap_cons

theorem directiveBytes_cons (d : Directive) (ds : List Directive) :
    directiveBytes (d :: ds) = d.bytes ++ directiveBytes ds :=
  List.flatMap_cons

/-! ### The scan, byte by byte of a title and directive by directive -/

theorem headerParse_titleByte (b : TitleByte) (acc : List Byte) (cfg : HeaderConfig) (p : Nat) (rest : List Byte) :
    headerParse (.title acc) cfg p (b.bytes ++ rest) =
      headerParse (.title (b.value :: acc)) cfg (p + b.bytes.length) rest := by
  unfold TitleByte.bytes
  split
  · simp [headerParse]
  next h =>
    obtain ⟨-, hzero, hone⟩ : ¬ b.escaped = true ∧ b.value ≠ 0x00#8 ∧ b.value ≠ 0x01#8 := by
      simpa only [not_or] using h
    simp [headerParse, hzero, hone]

theorem headerParse_titleBytes (t : List TitleByte) (acc : List Byte) (cfg : HeaderConfig) (p : Nat)
    (rest : List Byte) :
    headerParse (.title acc) cfg p (titleBytes t ++ rest) =
      headerParse (.title ((t.map TitleByte.value).reverse ++ acc)) cfg (p + (titleBytes t).length) rest := by
  induction t generalizing acc p with
  | nil => rfl
  | cons b t ih =>
    rw [titleBytes_cons, List.append_assoc, headerParse_titleByte, ih]
    simp [Nat.add_assoc]

theorem headerParse_directive (d : Directive) (cfg : HeaderConfig) (p : Nat) (rest : List Byte) :
    headerParse .directive cfg p (d.bytes ++ rest) =
      headerParse .directive (d.apply cfg) (p + d.bytes.length) rest := by
  cases d with
  | setTitle t =>
    have hbytes : (Directive.setTitle t).bytes ++ rest = 0x01#8 :: (titleBytes t ++ 0x01#8 :: rest) := by
      simp [Directive.bytes]
    have hlen : p + (Directive.setTitle t).bytes.length = p + 1 + (titleBytes t).length + 1 := by
      simp only [Directive.bytes, List.length_cons, List.length_append, List.length_nil]
      omega
    rw [hbytes, hlen]
    simp [headerParse, headerParse_titleBytes, Directive.apply]
  | setRepeat => rfl
  | setKeepOpen => rfl
  | setDebug => rfl

theorem headerParse_directiveBytes (ds : List Directive) (cfg : HeaderConfig) (p : Nat) (rest : List Byte) :
    headerParse .directive cfg p (directiveBytes ds ++ rest) =
      headerParse .directive (ds.foldl Directive.apply cfg) (p + (directiveBytes ds).length) rest := by
  induction ds generalizing cfg p with
  | nil => rfl
  | cons d ds ih =>
    rw [directiveBytes_cons, List.append_assoc, headerParse_directive, ih]
    simp [Nat.add_assoc]

/-! ### The header step on directives and what follows them -/

variable {s : State} {ds : List Directive} {rest : List Byte}

theorem headerParse_prog (hprog : s.prog = directiveBytes ds ++ rest) :
    headerParse .directive s.cfg 0 s.prog =
      headerParse .directive (ds.foldl Directive.apply s.cfg) (directiveBytes ds).length rest := by
  rw [hprog, headerParse_directiveBytes, Nat.zero_add]

theorem step_of_headerParse_ok {cfg : HeaderConfig} {n : Nat} (hp : s.phase = .header)
    (hparse : headerParse .directive s.cfg 0 s.prog = .ok (cfg, n)) (hfits : s.prog.length - n < 2 ^ 64) :
    step s = .next (s.startBody cfg n) := by
  simp only [step, hp, stepHeader, hparse, if_neg (Nat.not_le.2 hfits)]

/-- A header fault keeps nothing of what the directives before it have set: it is taken in the state before the
step (R95, R161). -/
theorem step_of_headerParse_error {offset : Nat} {k : FaultKind} {v : FaultValue} (hp : s.phase = .header)
    (hparse : headerParse .directive s.cfg 0 s.prog = .error ⟨offset, raiseKind k v⟩) :
    step s = .next (s.headerFaulted k offset v) := by
  simp only [step, hp, stepHeader, hparse]
  rfl

end Sys2Proof.Machine

namespace Sys2Proof.Claims

open Sys2Proof.Machine

/-- Settles O16: after the directives the scan meets the terminator, and what it leaves of the program is the body. -/
theorem headerOfDirectivesParses : Obligations.HeaderOfDirectivesParses := by
  intro s ds body hp hprog hbody
  have hfits : s.prog.length - ((directiveBytes ds).length + 1) < 2 ^ 64 := by
    rw [hprog, List.length_append, List.length_cons]
    omega
  exact step_of_headerParse_ok hp (headerParse_prog hprog) hfits

/-- Settles O17: the directives before the byte raise nothing, and the scan faults on it. -/
theorem altPaletteIsNotImplemented : Obligations.AltPaletteIsNotImplemented := by
  intro s ds rest hp hprog
  exact step_of_headerParse_error hp (headerParse_prog hprog)

/-- Settles O18: the directives before the byte raise nothing, and the byte is none of the six the scan knows. -/
theorem unknownDirectiveFaults : Obligations.UnknownDirectiveFaults := by
  intro s ds b rest hp hprog hb
  have hunknown (cfg : HeaderConfig) (p : Nat) :
      headerParse .directive cfg p (b :: rest) = .error (malformedHeader p (.byte b)) := by
    simp only [List.mem_cons, List.not_mem_nil, or_false, not_or] at hb
    obtain ⟨h00, h01, h02, h03, h04, hD5⟩ := hb
    simp only [headerParse, h00, h01, h02, h03, h04, hD5, if_false]
  exact step_of_headerParse_error hp ((headerParse_prog hprog).trans (hunknown _ _))

end Sys2Proof.Claims
end

section
/-! PROOFS. The dispatcher: what a RUN step does with each answer of the host and of the decoder (O8, O9, O10), the
post-loop step (O12, O14), and executing one instruction (O50, O53). -/

namespace Sys2Proof

/-! ### Too few operand bytes (R105): one lemma per format, then the decoder -/

variable {op : Byte} {bs : List Byte}

theorem formatA_of_short {mk : Byte → Instr} (h : bs.length < 1) :
    formatA op mk bs = .error (.truncated op bs.length) := by
  unfold formatA
  split
  · simp only [List.length_cons] at h
    omega
  · rfl

theorem formatAA_of_short {mk : Byte → Byte → Instr} (h : bs.length < 2) :
    formatAA op mk bs = .error (.truncated op bs.length) := by
  unfold formatAA
  split
  · simp only [List.length_cons] at h
    omega
  · rfl

theorem formatAAA_of_short {mk : Byte → Byte → Byte → Instr} (h : bs.length < 3) :
    formatAAA op mk bs = .error (.truncated op bs.length) := by
  unfold formatAAA
  split
  · simp only [List.length_cons] at h
    omega
  · rfl

theorem formatJ_of_short {mk : Word → Instr} (h : bs.length < 8) :
    formatJ op mk bs = .error (.truncated op bs.length) := by
  unfold formatJ
  split
  · simp only [List.length_cons] at h
    omega
  · rfl

theorem formatCJ_of_short {mk : Byte → Word → Instr} (h : bs.length < 9) :
    formatCJ op mk bs = .error (.truncated op bs.length) := by
  unfold formatCJ
  split
  · simp only [List.length_cons] at h
    omega
  · rfl

theorem formatV_of_short {mk : Byte → Octet → Byte → Instr} (h : bs.length < 10) :
    formatV op mk bs = .error (.truncated op bs.length) := by
  unfold formatV
  split
  · simp only [List.length_cons] at h
    omega
  · rfl

theorem formatS_of_short {mk : Octet → Byte → Byte → Instr} (h : bs.length < 10) :
    formatS op mk bs = .error (.truncated op bs.length) := by
  unfold formatS
  split
  · simp only [List.length_cons] at h
    omega
  · rfl

/-- Each opcode reads a format that is one byte shorter than its instruction (R71, R72). -/
theorem decodeOperands_of_short {i : Instr} (h : bs.length < i.length - 1) :
    decodeOperands i.opcode bs = .error (.truncated i.opcode bs.length) := by
  cases i with
  | nop | render => exact absurd h (Nat.not_lt_zero _)
  | vjmp | clear => exact formatA_of_short h
  | notCell | key => exact formatAA_of_short h
  | pixelLit | pixelMem | fdiv | fsub | fadd | fmul | div | sub | add | mul | gt | lt | arrayWrite =>
    exact formatAAA_of_short h
  | jmp => exact formatJ_of_short h
  | tjmp | fjmp => exact formatCJ_of_short h
  | varSet | letCell => exact formatV_of_short h
  | spriteBlit => exact formatS_of_short h

end Sys2Proof

namespace Sys2Proof.Machine

variable {s : State} {i : Instr} {rest : List Byte}

/-! ### The fetch-execute step, by the answers of the host and of the decoder (R103) -/

theorem step_run (hp : s.phase = .run) : step s = stepRun s := by
  simp [step, hp]

theorem stepRun_closed (hclosed : s.nextAnswer = false) :
    stepRun s = .next (s.pollOpen.enter (.ended .closed)) := by
  simp [stepRun, hclosed]

theorem stepRun_noBytes (hopen : s.nextAnswer = true) (hend : decode s.fetchBytes = .error .noBytes) :
    stepRun s = .next (s.pollOpen.enter (.ended .exhausted)) := by
  simp [stepRun, hopen, hend]

theorem stepRun_truncated {op : Byte} {n : Nat} (hopen : s.nextAnswer = true)
    (hshort : decode s.fetchBytes = .error (.truncated op n)) :
    stepRun s = .next (s.pollOpen.takeBodyFault op (raiseKind .unexpectedEndOfProgram (.count n))) := by
  simp [stepRun, hopen, hshort]

theorem stepRun_instruction (hopen : s.nextAnswer = true) (hdecode : decode s.fetchBytes = .ok (i, rest)) :
    stepRun s = afterExec (exec i s.pollOpen) := by
  simp [stepRun, hopen, hdecode]

/-- No byte is left to fetch exactly when the cursor is at or past BODY_LEN (R18, R106). -/
theorem fetchBytes_eq_nil : s.fetchBytes = [] ↔ s.bodyLen ≤ s.cursor.toNat := by
  rw [State.fetchBytes, List.drop_eq_nil_iff, State.body, List.length_drop, State.bodyLen]

theorem pump_of_faulted (h : s.phase = .faulted) : s.pump = s :=
  if_pos h

theorem pump_of_not_faulted (h : s.phase ≠ .faulted) : s.pump = s.call .pumpEvents :=
  if_neg h

/-! ### The post-loop step, by the two flags (R110) -/

theorem step_ended {r : EndReason} (hp : s.phase = .ended r) : step s = stepEnd s := by
  simp [step, hp]

theorem stepEnd_repeat (hr : s.cfg.repeatPass = true) : stepEnd s = .next ((s.jump 0).enter .run) := by
  simp [stepEnd, hr]

theorem stepEnd_keepOpen (hr : s.cfg.repeatPass = false) (hk : s.cfg.keepOpen = true) :
    stepEnd s = .next (s.enter .idle) := by
  simp [stepEnd, hr, hk]

theorem stepEnd_halt (hr : s.cfg.repeatPass = false) (hk : s.cfg.keepOpen = false) :
    stepEnd s = .next (s.enter .halted) := by
  simp [stepEnd, hr, hk]

end Sys2Proof.Machine

namespace Sys2Proof.Claims

open Sys2Proof.Machine

/-- Settles O8: the decoder counts the operand bytes it has, and the step takes its fault in the state after the
poll, which has not moved the cursor. -/
theorem truncatedInstructionFaults : Obligations.TruncatedInstructionFaults := by
  rintro s i operands ⟨hrun, hopen⟩ hfetch hshort
  have hdecode : decode s.fetchBytes = .error (.truncated i.opcode operands.length) := by
    rw [hfetch]
    exact decodeOperands_of_short hshort
  rw [step_run hrun, stepRun_truncated hopen hdecode]
  simp [State.takeBodyFault, State.takeFault, raiseKind]

/-- Settles O53: an instruction's effect is dropped whole when it raises. -/
theorem faultsArePrecise : Obligations.FaultsArePrecise := by
  intro i s
  obtain ⟨t, ht⟩ := exec_next i s
  refine ⟨t, ht, ?_⟩
  rcases (exec_effect ht).completes_or_faults with ⟨hphase, hfault, -⟩ | hfaulted
  · exact .inl ⟨hphase, hfault⟩
  · exact .inr hfaulted

/-- Settles O9: the poll leaves the bytes at the cursor, and the dispatcher looks at the phase after the instruction. -/
theorem stepRunsDecodedInstruction : Obligations.StepRunsDecodedInstruction := by
  rintro s i rest ⟨hrun, hopen⟩ hdecode
  obtain ⟨u, hu⟩ := exec_next i s.pollOpen
  have hstep : step s = .next u.pump := by
    rw [step_run hrun, stepRun_instruction hopen hdecode, hu, afterExec]
  refine ⟨by simp [State.pollOpen, State.call, hopen], u, hu, fun hne => ?_, fun hfaulted => ?_⟩
  · rw [hstep, pump_of_not_faulted hne, State.call]
  · rw [hstep, pump_of_faulted hfaulted]

/-- Settles O10: nothing is left to fetch, which the decoder reports by a name of its own. -/
theorem endOfBodyEndsPass : Obligations.EndOfBodyEndsPass := by
  rintro s ⟨hrun, hopen⟩ hend
  have hdecode : decode s.fetchBytes = .error .noBytes := by
    rw [fetchBytes_eq_nil.2 hend, decode]
  rw [step_run hrun, stepRun_noBytes hopen hdecode, State.enter]

/-- Settles O12: the post-loop step does not look at the reason. -/
theorem postLoopRule : Obligations.PostLoopRule := by
  intro s r hp
  rw [step_ended hp]
  exact ⟨stepEnd_repeat, stepEnd_keepOpen, stepEnd_halt⟩

/-- Settles O14: the first step ends the pass, and the post-loop step starts the next one whatever the reason. -/
theorem closedHostWithRepeatRestarts : Obligations.ClosedHostWithRepeatRestarts := by
  intro s hrun hclosed hrepeat
  have hend : step s = .next (s.pollOpen.enter (.ended .closed)) :=
    (step_run hrun).trans (stepRun_closed hclosed)
  have hrestart : step (s.pollOpen.enter (.ended .closed)) =
      .next (((s.pollOpen.enter (.ended .closed)).jump 0).enter .run) :=
    (step_ended rfl).trans (stepEnd_repeat (by simpa using hrepeat))
  exact ⟨_, _, hend, hrestart, by simp [hclosed]⟩

/-- Settles O50: NOP's effect writes nothing, so only the passing of its one byte remains. -/
theorem nopOnlyAdvances : Obligations.NopOnlyAdvances :=
  ⟨fun _ => rfl, fun s => (exec_nop s).trans (perform_completes rfl)⟩

end Sys2Proof.Claims
end

section
/-! PROOFS. What writing pixels does, and what PIXEL_LIT and PIXEL_MEM write (O24, O25; R117 to R121). -/

namespace Sys2Proof.Machine

variable {s : State} {c : Color}

/-! ### Writing pixels -/

/-- Passing an instruction and writing one pixel is all that `WritesPixel` allows. -/
theorem writesPixel_past_setPixel (s : State) (len i : Nat) (c : Color) :
    WritesPixel s ((s.past len).setPixel i c) len i c :=
  ⟨rfl, by simp, fun j hj => by simp [hj]⟩

/-- Writing pixels changes the framebuffer alone. -/
theorem setPixels_eq_withFb (s : State) (px : List (Nat × Color)) :
    s.setPixels px = { s with fb := (s.setPixels px).fb } := by
  induction px generalizing s with
  | nil => rfl
  | cons e rest ih => exact ih (s.setPixel e.1 e.2)

theorem setPixels_pixel_of_forall_ne {px : List (Nat × Color)} {n : Nat} (h : ∀ e ∈ px, e.1 ≠ n) :
    (s.setPixels px).pixel n = s.pixel n := by
  induction px generalizing s with
  | nil => rfl
  | cons e rest ih =>
    obtain ⟨hne, hrest⟩ := List.forall_mem_cons.1 h
    calc ((s.setPixel e.1 e.2).setPixels rest).pixel n
      _ = (s.setPixel e.1 e.2).pixel n := ih hrest
      _ = s.pixel n := by simp [hne.symm]

/-- Writes that agree on the Color of a pixel leave it that Color, in whatever order they are made. -/
theorem setPixels_pixel_of_mem {px : List (Nat × Color)} {n : Nat} (hmem : (n, c) ∈ px)
    (hagree : ∀ e ∈ px, e.1 = n → e.2 = c) : (s.setPixels px).pixel n = c := by
  induction px generalizing s with
  | nil => cases hmem
  | cons e rest ih =>
    obtain ⟨he, hrest⟩ := List.forall_mem_cons.1 hagree
    by_cases hlater : (n, c) ∈ rest
    · exact ih hlater hrest
    · obtain rfl : (n, c) = e := (List.mem_cons.1 hmem).resolve_right hlater
      have hlast : ∀ e ∈ rest, e.1 ≠ n := fun e hin hn => hlater (by rwa [← hn, ← hrest e hin hn])
      calc ((s.setPixel n c).setPixels rest).pixel n
        _ = (s.setPixel n c).pixel n := setPixels_pixel_of_forall_ne hlast
        _ = c := by simp

/-! ### PIXEL_MEM on two non-negative Ints (R120, R121) -/

theorem coord_int_eq_emod {x : Word} (h : 0 ≤ x.toInt) (n : Nat) : coord (.int x) n = .ok (x.toInt % n).toNat := by
  rw [coord_int_of_nonneg h, Int.toNat_emod h (Int.natCast_nonneg n), Int.toNat_natCast]

theorem exec_pixelMem_of_nonneg {xa ya b : Byte} {x y : Word} (hxa : xa ≠ 0xFF#8) (hya : ya ≠ 0xFF#8)
    (hc : paramColor s.params b = some c) (hx : s.cell xa = .int x) (hy : s.cell ya = .int y) (hx0 : 0 ≤ x.toInt)
    (hy0 : 0 ≤ y.toInt) :
    exec (.pixelMem xa ya b) s = .next (if c = .transparent then s.past 4 else
      (s.past 4).setPixel (pixelIndex (x.toInt % fbWidth).toNat (y.toInt % s.params.fbHeight).toNat) c) := by
  have haddrs : checkAddrs [xa, ya] = .ok () := checkAddrs_of_notMem (by simp [hxa.symm, hya.symm])
  have hcolor : colorDecode s.params b = .ok c := colorDecode_eq_ok.2 hc
  rw [exec_pixelMem]
  apply perform_completes
  by_cases ht : c = .transparent <;>
    simp [haddrs, hcolor, readNumeric_eq, hx, hy, coord_int_eq_emod hx0, coord_int_eq_emod hy0, Instr.length, ht]

end Sys2Proof.Machine

namespace Sys2Proof.Claims

open Sys2Proof.Machine

/-- Settles O24: the three branches after the colour byte is decoded. -/
theorem pixelLitDrawsOnePixel : Obligations.PixelLitDrawsOnePixel := by
  intro s x y b c hc
  have hcolor : colorDecode s.params b = .ok c := colorDecode_eq_ok.2 hc
  rw [exec_pixelLit]
  refine ⟨fun ht => ?_, fun ht hx hy => ?_, fun ht hout => ?_⟩
  · exact perform_completes (by simp [hcolor, ht, Instr.length])
  · have hin : ¬ (255 ≤ x.toNat ∨ s.params.fbHeight ≤ y.toNat) := by omega
    exact ⟨_, perform_completes (by simp [hcolor, ht, hin, pixelIndex, fbWidth, Instr.length]),
      writesPixel_past_setPixel s 4 _ c⟩
  · have hedge : fbWidth ≤ x.toNat ∨ s.params.fbHeight ≤ y.toNat := hout.imp_left Eq.ge
    exact perform_raises (r := framebufferRange ..) (by simp [hcolor, ht, hedge])

/-- Settles O25: the two branches of PIXEL_MEM after its coordinates are taken. -/
theorem pixelMemWrapsCoordinates : Obligations.PixelMemWrapsCoordinates := by
  intro s xa ya b c x y hxa hya hc hx hy hx0 hy0
  have hexec := exec_pixelMem_of_nonneg hxa hya hc hx hy hx0 hy0
  refine ⟨fun ht => ?_, fun ht => ⟨_, ?_, writesPixel_past_setPixel s 4 _ c⟩⟩
  · rw [hexec, if_pos ht]
  · rw [hexec, if_neg ht]
    rfl

end Sys2Proof.Claims
end

section
/-! PROOFS. A sprite that raises no fault (O27): the scan answers the opaque pixels, and no two bytes of a sprite share
a pixel (R122, R123). -/

namespace Sys2Proof.Machine

open Sys2Proof.Claims

variable {s : State} {P : Params}

/-! ### The 64 bytes of a sprite -/

theorem readRows_map {ι : Type} {addr : ι → Byte} {row : ι → Octet} {l : List ι}
    (h : ∀ k ∈ l, s.cell (addr k) = .bytes (row k)) : readRows s (l.map addr) = .ok (l.map row) := by
  induction l with
  | nil => rfl
  | cons k rest ih =>
    obtain ⟨hk, hrest⟩ := List.forall_mem_cons.1 h
    simp [readRows, readBytes_eq_ok.2 hk, ih hrest]

/-- The bytes of a sprite in scan order, its sources given by their number (R123). -/
def spriteGrid (rows : Nat → Octet) : List SpriteByte :=
  spriteBytes ((List.range 8).map rows)

theorem mem_spriteGrid {rows : Nat → Octet} {b : SpriteByte} :
    b ∈ spriteGrid rows ↔ ∃ k < 8, ∃ j < 8, b = ⟨k, j, slotOf (rows k) j⟩ := by
  have hgrid : spriteGrid rows =
      (List.range 8).flatMap fun k => (List.range 8).map fun j => ⟨k, j, slotOf (rows k) j⟩ := rfl
  simp [hgrid, eq_comm]

theorem spritePosition_eq_spriteAt (P : Params) (ox oy : Word) (k j : Nat) (code : Byte) :
    spritePosition P.spriteLayout ox.toInt oy.toInt ⟨k, j, code⟩ = spriteAt P ox oy k j := by
  unfold spritePosition spriteAt
  cases P.spriteLayout with
  | rowMajor => rfl
  | columnMajor => rfl

theorem onScreen_iff_inside {p : Int × Int} : onScreen P p = true ↔ inside P p :=
  decide_eq_true_iff

/-- Inside the framebuffer a sprite puts each of its bytes at a pixel of its own (R33, R122). -/
theorem spriteAt_index_inj {ox oy : Word} {k j k' j' : Nat} (h : inside P (spriteAt P ox oy k j))
    (h' : inside P (spriteAt P ox oy k' j'))
    (heq : pixelIndex (spriteAt P ox oy k j).1.toNat (spriteAt P ox oy k j).2.toNat =
      pixelIndex (spriteAt P ox oy k' j').1.toNat (spriteAt P ox oy k' j').2.toNat) : k = k' ∧ j = j' := by
  unfold inside at h h'
  unfold pixelIndex fbWidth at heq
  unfold spriteAt at h h' heq
  cases hl : P.spriteLayout with
  | rowMajor =>
    simp only [hl] at h h' heq
    omega
  | columnMajor =>
    simp only [hl] at h h' heq
    omega

/-! ### The scan -/

/-- The pixel that a sprite byte writes, if it is opaque (R123). -/
def spritePixel (P : Params) (ox oy : Int) (b : SpriteByte) : Option (Nat × Color) :=
  let p := spritePosition P.spriteLayout ox oy b
  ((paramColor P b.code).filter (· ≠ .transparent)).map fun c => (pixelIndex p.1.toNat p.2.toNat, c)

/-- A scan without a fault answers the pixels of the opaque bytes (R123). -/
theorem spriteScan_of_fine {ox oy : Int} {l : List SpriteByte}
    (h : ∀ b ∈ l, ∃ c, paramColor P b.code = some c ∧
      (c = .transparent ∨ onScreen P (spritePosition P.spriteLayout ox oy b) = true)) :
    spriteScan P ox oy l = .ok (l.filterMap (spritePixel P ox oy)) := by
  induction l with
  | nil => rfl
  | cons b rest ih =>
    obtain ⟨⟨c, hc, hfine⟩, hrest⟩ := List.forall_mem_cons.1 h
    by_cases ht : c = .transparent
    · simp [spriteScan, spritePixel, colorDecode_eq_ok.2 hc, hc, ht, ih hrest]
    · have hon := hfine.resolve_left ht
      simp [spriteScan, spritePixel, colorDecode_eq_ok.2 hc, hc, ht, hon, ih hrest]

/-- The pixels that a sprite at the origin `(ox, oy)` writes. -/
def spritePixels (P : Params) (rows : Nat → Octet) (ox oy : Word) : List (Nat × Color) :=
  (spriteGrid rows).filterMap (spritePixel P ox.toInt oy.toInt)

theorem mem_spritePixels {rows : Nat → Octet} {ox oy : Word} {e : Nat × Color} :
    e ∈ spritePixels P rows ox oy ↔ ∃ k < 8, ∃ j < 8, ∃ c, paramColor P (slotOf (rows k) j) = some c ∧
      c ≠ .transparent ∧ (pixelIndex (spriteAt P ox oy k j).1.toNat (spriteAt P ox oy k j).2.toNat, c) = e := by
  simp only [spritePixels, List.mem_filterMap, mem_spriteGrid]
  constructor
  · rintro ⟨_, ⟨k, hk, j, hj, rfl⟩, h⟩
    obtain ⟨c, ⟨hc, ht⟩, rfl⟩ := by
      simpa [spritePixel, spritePosition_eq_spriteAt, Option.filter_eq_some_iff] using h
    exact ⟨k, hk, j, hj, c, hc, ht, rfl⟩
  · rintro ⟨k, hk, j, hj, c, hc, ht, rfl⟩
    exact ⟨_, ⟨k, hk, j, hj, rfl⟩, by simp [spritePixel, spritePosition_eq_spriteAt, hc, ht]⟩

/-! ### SPRITE_BLIT -/

/-- A sprite that can be read draws what its scan answers (R123). -/
theorem exec_spriteBlit_of_scan_ok {srcs : Octet} {xa ya : Byte} {rows : Nat → Octet} {ox oy : Word}
    {px : List (Nat × Color)} (hread : spriteReadable s srcs xa ya rows ox oy)
    (hscan : spriteScan s.params ox.toInt oy.toInt (spriteGrid rows) = .ok px) :
    exec (.spriteBlit srcs xa ya) s = .next ((s.past 11).setPixels px) := by
  obtain ⟨haddrs, hsrcs, hx, hy⟩ := hread
  have hrows : readRows s srcs.toList = .ok ((List.range 8).map rows) :=
    readRows_map (addr := slotOf srcs) fun k hk => hsrcs k (List.mem_range.1 hk)
  rw [exec_spriteBlit]
  apply perform_completes
  rw [spriteGrid] at hscan
  simp [checkAddrs_of_notMem haddrs, hrows, readInt_eq_ok.2 hx, readInt_eq_ok.2 hy, hscan, Instr.length]

end Sys2Proof.Machine

namespace Sys2Proof.Claims

open Sys2Proof.Machine

/-- Settles O27: the sprite writes `spritePixels`, in which a pixel stands for one byte only. -/
theorem spriteBlitDrawsOpaquePixels : Obligations.SpriteBlitDrawsOpaquePixels := by
  intro s srcs xa ya rows ox oy hread hfine
  have hscan : spriteScan s.params ox.toInt oy.toInt (spriteGrid rows) = .ok (spritePixels s.params rows ox oy) := by
    refine spriteScan_of_fine fun b hb => ?_
    obtain ⟨k, hk, j, hj, rfl⟩ := mem_spriteGrid.1 hb
    simpa only [spriteByteFine, spritePosition_eq_spriteAt, onScreen_iff_inside] using hfine k hk j hj
  have hinside {k j : Nat} (hk : k < 8) (hj : j < 8) {c : Color} (hc : paramColor s.params (slotOf (rows k) j) = some c)
      (ht : c ≠ .transparent) : inside s.params (spriteAt s.params ox oy k j) := by
    obtain ⟨c', hc', h⟩ := hfine k hk j hj
    obtain rfl : c = c' := Option.some.inj (hc.symm.trans hc')
    exact h.resolve_left ht
  refine ⟨_, exec_spriteBlit_of_scan_ok hread hscan, setPixels_eq_withFb (s.past 11) _, ?_, fun n hn => ?_⟩
  · intro k hk j hj c hc ht
    refine setPixels_pixel_of_mem (mem_spritePixels.2 ⟨k, hk, j, hj, c, hc, ht, rfl⟩) fun e he hidx => ?_
    obtain ⟨k', hk', j', hj', c', hc', ht', rfl⟩ := mem_spritePixels.1 he
    obtain ⟨rfl, rfl⟩ := spriteAt_index_inj (hinside hk' hj' hc' ht') (hinside hk hj hc ht) hidx
    exact Option.some.inj (hc'.symm.trans hc)
  · refine setPixels_pixel_of_forall_ne (s := s.past 11) fun e he => ?_
    obtain ⟨k, hk, j, hj, c, hc, ht, rfl⟩ := mem_spritePixels.1 he
    exact hn k hk j hj c hc ht

end Sys2Proof.Claims
end

section
/-! PROOFS. Arithmetic on two cells of the kind an instruction takes (O33, O38): its operands are their contents, so
only the operation and the write of its result remain. -/

namespace Sys2Proof.Machine

variable {s : State} {l r d : Byte} {x y : Word}

/-! ### FADD, FSUB, FMUL, FDIV (R126 to R130) -/

theorem floatArith_of_floats (op : Word → Word → Option Word) (ha : 0xFF#8 ∉ [l, r, d]) (hl : s.cell l = .float x)
    (hr : s.cell r = .float y) : floatArith op l r d s = .ok (s.setFloat d (op x y)) := by
  have hargs : floatOperands s l r d = .ok (x, y) := floatOperands_eq_ok.2 ⟨ha, hl, hr⟩
  simp [floatArith, hargs]

theorem nextNaN_isNaN (s : State) : f64IsNaN s.nextNaN = true :=
  nanPattern_isNaN _

/-! ### DIV (R131, R135) -/

theorem narrow_of_overflow {a b v : Int} (h : v < -2 ^ 63 ∨ 2 ^ 63 ≤ v) :
    narrow a b v = .error (raiseUnmodelled .integerOverflow (.ints a b)) := by
  rw [narrow, if_pos (by omega)]

/-- The truncated quotient of two words is an `i64` but for -2^63 by -1 (D13). -/
theorem narrow_tdiv (h : ¬ (x.toInt = -2 ^ 63 ∧ y.toInt = -1)) :
    narrow x.toInt y.toInt (x.toInt.tdiv y.toInt) = .ok (x.sdiv y) := by
  have hne : x ≠ BitVec.intMin 64 ∨ y ≠ -1#64 := by
    rw [← not_and_or]
    rintro ⟨rfl, rfl⟩
    exact h (by decide)
  have hq : (x.sdiv y).toInt = x.toInt.tdiv y.toInt := BitVec.toInt_sdiv_of_ne_or_ne x y hne
  rw [← hq]
  exact narrow_eq_ok.2 ⟨(x.sdiv y).le_toInt, BitVec.toInt_lt, rfl⟩

/-! ### Truncated division of integers -/

theorem abs_tdiv_mul_le (a b : Int) : |a.tdiv b * b| ≤ |a| := by
  have hnat : (a.tdiv b * b).natAbs ≤ a.natAbs := by
    rw [Int.natAbs_mul, Int.natAbs_tdiv]
    exact Nat.div_mul_le_self ..
  zify at hnat
  exact hnat

theorem abs_tmod_lt (a : Int) {b : Int} (hb : b ≠ 0) : |a.tmod b| < |b| := by
  have hnat : (a.tmod b).natAbs < b.natAbs := by
    rw [Int.natAbs_tmod]
    exact Nat.mod_lt _ (Int.natAbs_pos.2 hb)
  zify at hnat
  exact hnat

/-- The remainder is 0 or has the sign of the dividend. -/
theorem tmod_mul_self_nonneg (a b : Int) : 0 ≤ a.tmod b * a := by
  rcases le_total 0 a with ha | ha
  · exact mul_nonneg (Int.tmod_nonneg b ha) ha
  · have hneg : 0 ≤ -a.tmod b := Int.neg_tmod a b ▸ Int.tmod_nonneg b (neg_nonneg.2 ha)
    exact mul_nonneg_of_nonpos_of_nonpos (neg_nonneg.1 hneg) ha

end Sys2Proof.Machine

namespace Sys2Proof.Claims

open Sys2Proof.Machine

/-- A float instruction whose effect is `floatArith op` writes the result of `op`, or a NaN that it draws. -/
theorem floatResult_of_floatArith {mk : Byte → Byte → Byte → Instr} {op : Word → Word → Option Word}
    (he : ∀ l r d s, exec (mk l r d) s = s.perform (mk l r d) (floatArith op l r d))
    (hlen : ∀ l r d, (mk l r d).length = 4) : floatResult mk op := by
  rintro s l r d x y ⟨hl, hr, hd⟩ hx hy
  have ha : 0xFF#8 ∉ [l, r, d] := by simp [hl.symm, hr.symm, hd.symm]
  have hexec : exec (mk l r d) s = .next ((s.past 4).setFloat d (op x y)) := by
    rw [he]
    exact perform_completes (by rw [hlen]; exact floatArith_of_floats op ha hx hy)
  refine ⟨fun f hf => ?_, fun hnan => ?_⟩
  · rw [hf] at hexec
    exact ⟨_, hexec, writesCell_past_setCell s 4 d (.float f)⟩
  · rw [hnan] at hexec
    obtain ⟨-, hdest, hothers⟩ := writesCell_past_setCell s.drewNaN 4 d (.float s.nextNaN)
    exact ⟨_, s.nextNaN, hexec, nextNaN_isNaN s, rfl, hdest, hothers⟩

/-- Settles O33: the four instructions differ in their operation alone. -/
theorem floatInstructionsWriteResults : Obligations.FloatInstructionsWriteResults :=
  ⟨floatResult_of_floatArith exec_fadd fun _ _ _ => rfl, floatResult_of_floatArith exec_fsub fun _ _ _ => rfl,
    floatResult_of_floatArith exec_fmul fun _ _ _ => rfl, floatResult_of_floatArith exec_fdiv fun _ _ _ => rfl⟩

/-- Settles O38: the quotient is `BitVec.sdiv`, and its remainder is `Int.tmod`. -/
theorem divTruncatesTowardZero : Obligations.DivTruncatesTowardZero := by
  rintro s l r d x y ⟨hl, hr, hd⟩ hx hy
  have ha : 0xFF#8 ∉ [l, r, d] := by simp [hl.symm, hr.symm, hd.symm]
  have hargs : intOperands (s.past 4) l r d = .ok (x.toInt, y.toInt) := intOperands_eq_ok.2 ⟨ha, x, y, hx, hy, rfl⟩
  rw [exec_div]
  refine ⟨fun hzero => ?_, fun hmin hneg => ?_, fun hne hfits => ?_⟩
  · exact perform_raises (r := raiseKind ..) (by simp [Instr.length, hargs, hzero])
  · have hne : y.toInt ≠ 0 := by omega
    have hover : 2 ^ 63 ≤ x.toInt.tdiv y.toInt := by
      rw [hmin, hneg]
      decide
    exact perform_raises (r := raiseUnmodelled ..)
      (by simp [Instr.length, hargs, hne, narrow_of_overflow (.inr hover)])
  · have hq : narrow x.toInt y.toInt (x.toInt.tdiv y.toInt) = .ok (x.sdiv y) := narrow_tdiv hfits
    obtain ⟨-, -, hval⟩ := narrow_eq_ok.1 hq
    have hrem : x.toInt - x.toInt.tdiv y.toInt * y.toInt = x.toInt.tmod y.toInt := by
      rw [Int.tmod_def, mul_comm]
    refine ⟨_, x.sdiv y, perform_completes (by simp [Instr.length, hargs, hne, hq]), writesCell_past_setCell .., ?_⟩
    rw [hval, hrem]
    exact ⟨abs_tdiv_mul_le .., abs_tmod_lt _ hne, tmod_mul_self_nonneg ..⟩

end Sys2Proof.Claims
end

section
/-! PROOFS. NOT (O41): its test of the source accepts a cell of every tag, so at valid addresses it always writes. -/

namespace Sys2Proof.Machine

variable {s : State} {a d : Byte} {k : Word}

/-! ### The permissive test (R136, R147, R148) -/

@[simp] theorem isIntCell_past (s : State) (n : Nat) (a : Byte) (k : Word) :
    isIntCell (s.past n) a k = isIntCell s a k := rfl

theorem isIntCell_eq_true : isIntCell s a k = true ↔ s.cell a = .int k :=
  decide_eq_true_iff

theorem isIntCell_eq_false : isIntCell s a k = false ↔ s.cell a ≠ .int k :=
  decide_eq_false_iff_not

/-! ### NOT (R136) -/

theorem exec_notCell_of_addrs (ha : a ≠ 0xFF#8) (hd : d ≠ 0xFF#8) :
    exec (.notCell a d) s = .next ((s.past 3).setCell d (truth (isIntCell s a 0))) := by
  have haddrs : checkAddrs [a, d] = .ok () := checkAddrs_of_notMem (by simp [ha.symm, hd.symm])
  rw [exec_notCell]
  exact perform_completes (by simp [haddrs, Instr.length])

end Sys2Proof.Machine

namespace Sys2Proof.Claims

open Sys2Proof.Machine

/-- Settles O41: the value written is the truth value of the test, whichever way it goes. -/
theorem notIsPermissive : Obligations.NotIsPermissive := by
  intro s a d ha hd
  have hexec := exec_notCell_of_addrs (s := s) ha hd
  refine ⟨fun hzero => ?_, fun hother => ?_⟩
  · rw [isIntCell_eq_true.2 hzero] at hexec
    exact ⟨_, hexec, writesCell_past_setCell s 3 d (.int 1)⟩
  · rw [isIntCell_eq_false.2 hother] at hexec
    exact ⟨_, hexec, writesCell_past_setCell s 3 d (.int 0)⟩

end Sys2Proof.Claims
end

section
/-! PROOFS. VAR_SET (O43): with a mapped tag and a valid destination it writes the literal, and the number of a literal
holds the payload byte for byte. -/

namespace Sys2Proof.Machine

/-- The slots of a word's eight bytes are its bytes, lowest first (R58). -/
theorem slotOf_bytes64 {n : Nat} (hn : n < 8) (w : Word) : slotOf (bytes64 w) n = byteOfNat w.toNat n := by
  interval_cases n <;> rfl

/-- Byte `n` of the number that a payload holds is payload byte `n` (R58, R84). -/
theorem byteOfNat_le64 {n : Nat} (hn : n < 8) (p : Octet) : byteOfNat (le64 p).toNat n = slotOf p n := by
  rw [← slotOf_bytes64 hn, bytes64_le64]

theorem exec_varSet_of_tag {s : State} {b d : Byte} {k : Tag} (p : Octet) (hd : d ≠ 0xFF#8)
    (hk : paramTag s.params b = some k) :
    exec (.varSet b p d) s = .next ((s.past 11).setCell d (payloadDecode k p)) := by
  have hlit : literal b p d (s.past 11) = .ok (payloadDecode k p) := literal_eq_ok.2 ⟨hd, k, hk, rfl⟩
  rw [exec_varSet]
  exact perform_completes (by simp [Instr.length, hlit])

end Sys2Proof.Machine

namespace Sys2Proof.Claims

open Sys2Proof.Machine

/-- Settles O43: the value written is the decoded payload, whose number is `le64` of it. -/
theorem varSetAlwaysOverwrites : Obligations.VarSetAlwaysOverwrites := by
  intro s b p d k hd hk
  refine ⟨_, payloadDecode k p, exec_varSet_of_tag p hd hk, writesCell_past_setCell .., ?_, ?_, le64 p,
    fun n hn => byteOfNat_le64 hn p, ?_, ?_⟩
  all_goals
    rintro rfl
    rfl

end Sys2Proof.Claims
end

section
/-! PROOFS. The jumps (O47, O48): a conditional jump is decided by the permissive test of its cell, and an absolute
jump goes where its eight bytes say. -/

namespace Sys2Proof

/-- Eight bytes make a number below 2^64, so their word holds all of it (R58). -/
theorem le64_toNat (o : Octet) :
    (le64 o).toNat =
      o.b0.toNat + o.b1.toNat * 2 ^ 8 + o.b2.toNat * 2 ^ 16 + o.b3.toNat * 2 ^ 24 + o.b4.toNat * 2 ^ 32 +
        o.b5.toNat * 2 ^ 40 + o.b6.toNat * 2 ^ 48 + o.b7.toNat * 2 ^ 56 := by
  rw [le64, BitVec.toNat_ofNat]
  omega

end Sys2Proof

namespace Sys2Proof.Machine

variable {s : State} {a : Byte}

theorem exec_tjmp_of_addr (target : Word) (ha : a ≠ 0xFF#8) :
    exec (.tjmp a target) s = .next (if isIntCell s a 1 then s.jump target else s.past 10) := by
  rw [exec_tjmp]
  apply perform_completes
  rw [checkAddr_of_ne ha, isIntCell_past]
  cases isIntCell s a 1 <;> rfl

theorem exec_fjmp_of_addr (target : Word) (ha : a ≠ 0xFF#8) :
    exec (.fjmp a target) s = .next (if isIntCell s a 1 then s.past 10 else s.jump target) := by
  rw [exec_fjmp]
  apply perform_completes
  rw [checkAddr_of_ne ha, isIntCell_past]
  cases isIntCell s a 1 <;> rfl

theorem exec_jmp_eq_jump (s : State) (target : Word) : exec (.jmp target) s = .next (s.jump target) :=
  (exec_jmp target s).trans (perform_completes rfl)

end Sys2Proof.Machine

namespace Sys2Proof.Claims

open Sys2Proof.Machine

/-- Settles O47: TJMP and FJMP make the same test, and each goes on where the other jumps. -/
theorem conditionalJumpsTestForIntOne : Obligations.ConditionalJumpsTestForIntOne := by
  intro s a target ha
  rw [exec_tjmp_of_addr target ha, exec_fjmp_of_addr target ha]
  refine ⟨fun hone => ?_, fun hother => ?_⟩
  · rw [isIntCell_eq_true.2 hone]
    exact ⟨rfl, rfl⟩
  · rw [isIntCell_eq_false.2 hother]
    exact ⟨rfl, rfl⟩

/-- Settles O48: the offset is the word of the eight bytes. -/
theorem jmpIsAbsolute : Obligations.JmpIsAbsolute := fun s o _ =>
  ⟨le64 o, rfl, le64_toNat o, exec_jmp_eq_jump s (le64 o)⟩

end Sys2Proof.Claims
end

section
/-! PROOFS. RENDER (O31): the snapshot it presents is the frame itself. -/

namespace Sys2Proof.Machine

theorem exec_render_eq_present (s : State) : exec .render s = .next ((s.past 1).call (.present s.fb)) :=
  (exec_render s).trans (perform_completes rfl)

end Sys2Proof.Machine

namespace Sys2Proof.Claims

open Sys2Proof.Machine

/-- Settles O31: RENDER makes one call past its one byte, and `pixel` reads the frame it hands over. -/
theorem renderPresentsTheFramebuffer : Obligations.RenderPresentsTheFramebuffer := fun s =>
  ⟨s.fb, exec_render_eq_present s, fun _ => rfl⟩

end Sys2Proof.Claims
end

section
/-! PROOFS. The steps that only poll the host (O11, O13), the host calls of a step (O58), and the debug flag outside the
header (O59). -/

namespace Sys2Proof.Machine

variable {i : Instr} {s t : State}

/-! ### The idle step, by the answer of the host (R111) -/

theorem step_idle (hp : s.phase = .idle) : step s = stepIdle s := by
  simp [step, hp]

theorem stepIdle_open (hopen : s.nextAnswer = true) : stepIdle s = .next s.pollOpen := by
  simp [stepIdle, hopen]

theorem stepIdle_closed (hclosed : s.nextAnswer = false) : stepIdle s = .next (s.pollOpen.enter .halted) := by
  simp [stepIdle, hclosed]

/-! ### The log grows by a bounded number of calls (R116) -/

/-- The log of `t` is the log of `s` with at most `n` newer calls. -/
def LogGrows (n : Nat) (s t : State) : Prop :=
  ∃ calls : List HostCall, t.log = calls ++ s.log ∧ calls.length ≤ n

theorem LogGrows.of_eq {n : Nat} (h : t.log = s.log) : LogGrows n s t :=
  ⟨[], h, Nat.zero_le n⟩

theorem LogGrows.of_cons {n : Nat} {c : HostCall} (h : t.log = c :: s.log) : LogGrows (n + 1) s t :=
  ⟨[c], h, Nat.succ_le_succ (Nat.zero_le n)⟩

theorem LogGrows.trans {m n : Nat} {u : State} (h : LogGrows m s t) (h' : LogGrows n t u) : LogGrows (m + n) s u := by
  obtain ⟨calls, hst, hm⟩ := h
  obtain ⟨calls', htu, hn⟩ := h'
  refine ⟨calls' ++ calls, by rw [htu, hst, List.append_assoc], ?_⟩
  rw [List.length_append]
  omega

theorem LogGrows.mono {m n : Nat} (h : LogGrows m s t) (hmn : m ≤ n) : LogGrows n s t := by
  obtain ⟨calls, hst, hm⟩ := h
  exact ⟨calls, hst, hm.trans hmn⟩

theorem logGrows_pollOpen (s : State) : LogGrows 1 s s.pollOpen :=
  .of_cons (c := .isOpen s.nextAnswer) (by simp)

/-- An instruction makes at most one call: KEY and RENDER theirs, every other none. -/
theorem Effect.logGrows (h : Effect i s t) : LogGrows 1 s t := by
  cases h with
  | key k a key _ _ => exact .of_cons (c := .isKeyPressed key s.nextAnswer) (by simp [past_pollKey])
  | present _ => exact .of_cons (c := .present s.fb) rfl
  | _ => exact .of_eq (by simp)

theorem logGrows_pump (s : State) : LogGrows 1 s s.pump := by
  by_cases hf : s.phase = .faulted
  · exact .of_eq (by rw [pump_of_faulted hf])
  · exact .of_cons (c := .pumpEvents) (by rw [pump_of_not_faulted hf, State.call_log])

/-- The poll, the call of the instruction, and `pumpEvents`: no step makes more calls than these three. -/
theorem StepEffect.logGrows (h : StepEffect s t) : LogGrows 3 s t := by
  cases h with
  | startBody cfg n _ _ _ => exact .of_cons (c := .construct cfg) rfl
  | instruction i u _ hu =>
    exact ((logGrows_pollOpen s).trans (exec_effect hu).logGrows).trans (logGrows_pump u)
  | passEnds | fetchFault | idlePoll | idleClosed => exact (logGrows_pollOpen s).mono (by decide)
  | headerFault | nextPass | keepOpen | halt => exact .of_eq rfl

/-! ### The debug flag is part of what no step outside the header reads (R97) -/

theorem withDebug_eq_withUnread (b : Bool) :
    Claims.withDebug b = withUnread (fun cfg => { cfg with debug := b }) [] := by
  funext s
  simp [Claims.withDebug, withUnread]

end Sys2Proof.Machine

namespace Sys2Proof.Claims

open Sys2Proof.Machine

/-- Settles O11: the answer of the host is looked at before the bytes at the cursor are. -/
theorem closedHostEndsPass : Obligations.ClosedHostEndsPass := fun _ hrun hclosed =>
  (step_run hrun).trans (stepRun_closed hclosed)

/-- Settles O13: the idle step is the poll, and the answer decides the phase. -/
theorem idleStepPolls : Obligations.IdleStepPolls := by
  intro s hidle
  rw [step_idle hidle]
  exact ⟨stepIdle_open, stepIdle_closed⟩

/-- Settles O58: case by case of what a step can do. -/
theorem logOnlyGrows : Obligations.LogOnlyGrows := fun _ _ h =>
  (step_effect h).logGrows

/-- Settles O59: the post-loop step reads two other flags, and no other step reads the configuration. -/
theorem debugFlagHasNoEffect : Obligations.DebugFlagHasNoEffect := by
  intro s b hp
  rw [withDebug_eq_withUnread]
  exact step_withUnread _ [] hp rfl rfl

end Sys2Proof.Claims
end

section
/-! PROOFS. CLEAR (O30), LET (O44), ARRAY_WRITE on what it rejects (O46), and VJMP (O49): one equation each for the
states their statements speak of. -/

namespace Sys2Proof.Machine

variable {s : State} {a b d : Byte}

/-! ### CLEAR (R154) -/

theorem exec_clear_of_mapped {c : Color} (hc : paramColor s.params b = some c) :
    exec (.clear b) s = .next ((s.past 2).fill c) := by
  rw [exec_clear]
  exact perform_completes (by simp [colorDecode_eq_ok.2 hc, Instr.length])

/-! ### LET (R143) -/

theorem isEmptyCell_eq_true : isEmptyCell s a = true ↔ s.cell a = .empty :=
  decide_eq_true_iff

theorem isEmptyCell_eq_false : isEmptyCell s a = false ↔ s.cell a ≠ .empty :=
  decide_eq_false_iff_not

@[simp] theorem isEmptyCell_past (s : State) (n : Nat) (a : Byte) : isEmptyCell (s.past n) a = isEmptyCell s a := rfl

theorem exec_letCell_of_tag {k : Tag} (p : Octet) (hd : d ≠ 0xFF#8) (hk : paramTag s.params b = some k) :
    exec (.letCell b p d) s =
      .next (if isEmptyCell s d then (s.past 11).setCell d (payloadDecode k p) else s.past 11) := by
  have hlit : literal b p d (s.past 11) = .ok (payloadDecode k p) := literal_eq_ok.2 ⟨hd, k, hk, rfl⟩
  rw [exec_letCell]
  apply perform_completes
  rw [show (Instr.letCell b p d).length = 11 from rfl, hlit, checked_ok_bind, isEmptyCell_past]
  cases isEmptyCell s d <;> rfl

/-! ### ARRAY_WRITE and VJMP on a cell of another tag (R55) -/

theorem readArray_of_not_array (hb : ∀ w, s.cell a ≠ .bytes w) (hu : ∀ w, s.cell a ≠ .str w) :
    readArray s a = .error (typeMismatch (s.cell a)) := by
  unfold readArray
  cases hv : s.cell a with
  | bytes w => exact absurd hv (hb w)
  | str w => exact absurd hv (hu w)
  | _ => rfl

/-! ### VJMP (R150) -/

@[simp] theorem past_jump (s : State) (n : Nat) (t : Word) : (s.past n).jump t = s.jump t := rfl

theorem exec_vjmp_of_int {n : Word} (ha : a ≠ 0xFF#8) (hn : s.cell a = .int n) :
    exec (.vjmp a) s = .next (s.jump n) := by
  rw [exec_vjmp]
  apply perform_completes
  simp [checkAddr_of_ne ha, readInt_eq_ok.2 hn]

end Sys2Proof.Machine

namespace Sys2Proof.Claims

open Sys2Proof.Machine

/-- Settles O30: the frame becomes one that holds the Color everywhere. -/
theorem clearFillsTheFramebuffer : Obligations.ClearFillsTheFramebuffer := by
  intro s b c hc
  exact ⟨_, exec_clear_of_mapped hc, rfl, fill_pixel (s.past 2) c⟩

/-- Settles O44: LET and VAR_SET decode the same literal, which is never Empty. -/
theorem letWritesOnlyEmptyCells : Obligations.LetWritesOnlyEmptyCells := by
  intro s b p d hd htag
  obtain ⟨k, hk⟩ := Option.isSome_iff_exists.1 htag
  have hlet := exec_letCell_of_tag p hd hk
  refine ⟨fun hempty => ?_, fun hfull => ?_⟩
  · rw [isEmptyCell_eq_true.2 hempty, if_pos rfl] at hlet
    obtain ⟨hframe, hdest, hothers⟩ := writesCell_past_setCell s 11 d (payloadDecode k p)
    refine ⟨_, _, hlet, exec_varSet_of_tag p hd hk, ⟨hframe, rfl, hothers⟩, ?_⟩
    rw [hdest]
    exact payloadDecode_ne_empty k p
  · rw [hlet, isEmptyCell_eq_false.2 hfull]
    rfl

/-- Settles O46: the index is looked at before the cell. -/
theorem arrayWriteFaults : Obligations.ArrayWriteFaults := by
  intro s a i v ha
  rw [exec_arrayWrite]
  refine ⟨fun hi => ?_, fun hi hb hu => ?_⟩
  · exact perform_raises (r := raiseKind ..) (by simp [checkAddr_of_ne ha, hi])
  · exact perform_raises (r := typeMismatch _)
      (by simp [checkAddr_of_ne ha, not_lt.2 hi, readArray_of_not_array hb hu])

/-- Settles O49: the cursor takes the 64 bits of the cell, and a word read as unsigned is its Int modulo 2^64. -/
theorem vjmpJumpsThroughACell : Obligations.VjmpJumpsThroughACell := by
  intro s a ha
  refine ⟨fun n hn => ⟨_, exec_vjmp_of_int ha hn, rfl, ?_⟩, fun hother => ?_⟩
  · have hlt : n.toNat < 2 ^ 64 := n.isLt
    rw [State.jump_cursor, BitVec.toInt_eq_toNat_cond]
    split <;> omega
  · rw [exec_vjmp]
    exact perform_raises (r := typeMismatch _) (by simp [checkAddr_of_ne ha, readInt_of_not_int hother])

end Sys2Proof.Claims
end

section
/-! PROOFS. A header that ends early (O19): the scan meets the end of the program in one of its three modes. -/

namespace Sys2Proof.Machine

/-- What is left of a header that ends early, after its last whole directive: nothing, or a title that its 0x01 does
not close, with a last byte that is an escape or not (R93, R99). -/
inductive Unfinished : List Byte → Prop where
  | atDirective : Unfinished []
  | inTitle (t : List TitleByte) : Unfinished (0x01#8 :: titleBytes t)
  | afterEscape (t : List TitleByte) : Unfinished (0x01#8 :: (titleBytes t ++ [0x00#8]))

/-- The scan reads all there is and reports the end where it is (R99). -/
theorem headerParse_unfinished {rest : List Byte} (h : Unfinished rest) (cfg : HeaderConfig) (p : Nat) :
    headerParse .directive cfg p rest = .error (malformedHeader (p + rest.length) .endOfProgram) := by
  have htitle (t : List TitleByte) (tail : List Byte) :
      headerParse .directive cfg p (0x01#8 :: (titleBytes t ++ tail)) =
        headerParse (.title ((t.map TitleByte.value).reverse ++ [])) cfg (p + 1 + (titleBytes t).length) tail :=
    headerParse_titleBytes t [] cfg (p + 1) tail
  cases h with
  | atDirective => rfl
  | inTitle t =>
    have h := htitle t []
    rw [List.append_nil] at h
    rw [h, List.length_cons, Nat.add_right_comm, Nat.add_assoc]
    rfl
  | afterEscape t =>
    rw [htitle, List.length_cons, List.length_append, Nat.add_assoc p, Nat.add_comm 1]
    rfl

end Sys2Proof.Machine

namespace Sys2Proof.Claims

open Sys2Proof.Machine

/-- Settles O19: the directives before the unfinished rest raise nothing, and the scan ends at the program's length. -/
theorem truncatedHeaderFaults : Obligations.TruncatedHeaderFaults := by
  intro s ds t hp hprog
  obtain ⟨rest, hrest, hprog⟩ : ∃ rest, Unfinished rest ∧ s.prog = directiveBytes ds ++ rest := by
    rcases hprog with h | h | h
    · exact ⟨_, .atDirective, by rw [h, List.append_nil]⟩
    · exact ⟨_, .inTitle t, h⟩
    · exact ⟨_, .afterEscape t, h⟩
  have hlen : s.prog.length = (directiveBytes ds).length + rest.length := by
    rw [hprog, List.length_append]
  rw [hlen]
  exact step_of_headerParse_error hp ((headerParse_prog hprog).trans (headerParse_unfinished hrest _ _))

end Sys2Proof.Claims
end

section
/-! PROOFS. The bytes of a pixel at presentation (O23). -/

namespace Sys2Proof.Machine

variable {P : Params}

/-- In a table whose Colors are distinct, COLOR_RGB gives a Color the colour bytes of its row (R155). -/
theorem paramRgb_color (hcolors : (P.colors.map ColorRow.color).Nodup) {row : ColorRow} (hrow : row ∈ P.colors) :
    paramRgb P row.color = some row.rgb := by
  simp [paramRgb, find?_key_of_mem hcolors hrow]

end Sys2Proof.Machine

namespace Sys2Proof.Claims

open Sys2Proof.Machine

/-- Settles O23: the bytes are the channels of PIXEL_FORMAT in order, each with its byte of the row. -/
theorem encodedPixelsAreOpaque : Obligations.EncodedPixelsAreOpaque := by
  rintro P b c ⟨-, -, hcolors, -, -, -, -, -, -, -, -, hformat⟩ hb
  obtain ⟨row, hrow, hcode, rfl⟩ := paramColor_mem hb
  have hpx : colorEncode P row.color = some (P.pixelFormat.map (channelByte row.rgb)) := by
    rw [colorEncode, paramRgb_color hcolors hrow, Option.map_some]
  refine ⟨row, hrow, hcode, rfl, _, hpx, ?_, fun k => ?_⟩
  · rw [List.length_map, hformat.length_eq]
    rfl
  · have hbyte {ch : Channel} (h : P.pixelFormat[k]? = some ch) :
        (P.pixelFormat.map (channelByte row.rgb))[k]? = some (channelByte row.rgb ch) := by
      rw [List.getElem?_map, h, Option.map_some]
    exact ⟨hbyte, hbyte, hbyte, hbyte⟩

end Sys2Proof.Claims
end

section
/-! PROOFS. A sprite with a byte that faults (O28): the scan passes the bytes before it and stops there (R123). -/

namespace Sys2Proof.Machine

open Sys2Proof.Claims

variable {s : State} {P : Params} {ox oy : Int} {b : SpriteByte} {r : Raised}

/-! ### The scan up to its first fault -/

theorem spriteScan_cons_unmapped (hc : paramColor P b.code = none) (rest : List SpriteByte) :
    spriteScan P ox oy (b :: rest) = .error (raiseKind .unknownColorCode (.byte b.code)) := by
  simp [spriteScan, colorDecode_unmapped hc]

theorem spriteScan_cons_outside {c : Color} (hc : paramColor P b.code = some c) (ht : c ≠ .transparent)
    (hout : onScreen P (spritePosition P.spriteLayout ox oy b) = false) (rest : List SpriteByte) :
    spriteScan P ox oy (b :: rest) = .error (framebufferRange (spritePosition P.spriteLayout ox oy b).1
      (spritePosition P.spriteLayout ox oy b).2) := by
  simp [spriteScan, colorDecode_eq_ok.2 hc, ht, hout]

/-- Bytes that raise nothing only put off a fault. -/
theorem spriteScan_append_error {pre rest : List SpriteByte}
    (hpre : ∀ b ∈ pre, ∃ c, paramColor P b.code = some c ∧
      (c = .transparent ∨ onScreen P (spritePosition P.spriteLayout ox oy b) = true))
    (hrest : spriteScan P ox oy rest = .error r) : spriteScan P ox oy (pre ++ rest) = .error r := by
  induction pre with
  | nil => exact hrest
  | cons b pre ih =>
    obtain ⟨⟨c, hc, hfine⟩, hpre⟩ := List.forall_mem_cons.1 hpre
    by_cases ht : c = .transparent
    · simp [spriteScan, colorDecode_eq_ok.2 hc, ht, ih hpre]
    · simp [spriteScan, colorDecode_eq_ok.2 hc, hfine.resolve_left ht, ih hpre]

/-! ### The place of a byte in scan order -/

/-- The byte at place `n` of the scan: slot `n % 8` of source `n / 8`. -/
def spriteByteAt (rows : Nat → Octet) (n : Nat) : SpriteByte :=
  ⟨n / 8, n % 8, slotOf (rows (n / 8)) (n % 8)⟩

theorem spriteByteAt_place (rows : Nat → Octet) {j : Nat} (hj : j < 8) (k : Nat) :
    spriteByteAt rows (8 * k + j) = ⟨k, j, slotOf (rows k) j⟩ := by
  have hdiv : (8 * k + j) / 8 = k := by omega
  have hmod : (8 * k + j) % 8 = j := by omega
  rw [spriteByteAt, hdiv, hmod]

theorem spriteGrid_eq_map (rows : Nat → Octet) : spriteGrid rows = (List.range 64).map (spriteByteAt rows) := rfl

/-- Before the byte at place `n` of the scan come those at the places below `n`. -/
theorem spriteGrid_split (rows : Nat → Octet) {n : Nat} (hn : n < 64) :
    ∃ post, spriteGrid rows = (List.range n).map (spriteByteAt rows) ++ spriteByteAt rows n :: post := by
  obtain ⟨m, hm⟩ : ∃ m, 64 = n + (m + 1) := ⟨63 - n, by omega⟩
  rw [spriteGrid_eq_map, hm, List.range_add, List.range_succ_eq_map, List.map_append, List.map_cons, List.map_cons]
  exact ⟨_, rfl⟩

/-- A sprite that can be read raises what its scan raises (R123). -/
theorem exec_spriteBlit_of_scan_error {srcs : Octet} {xa ya : Byte} {rows : Nat → Octet} {ox oy : Word}
    (hread : spriteReadable s srcs xa ya rows ox oy)
    (hscan : spriteScan s.params ox.toInt oy.toInt (spriteGrid rows) = .error r) :
    exec (.spriteBlit srcs xa ya) s = .next (s.faultedBy (.spriteBlit srcs xa ya) r.kind r.reason r.value) := by
  obtain ⟨haddrs, hsrcs, hx, hy⟩ := hread
  have hrows : readRows s srcs.toList = .ok ((List.range 8).map rows) :=
    readRows_map (addr := slotOf srcs) fun k hk => hsrcs k (List.mem_range.1 hk)
  rw [exec_spriteBlit]
  apply perform_raises
  rw [spriteGrid] at hscan
  simp [checkAddrs_of_notMem haddrs, hrows, readInt_eq_ok.2 hx, readInt_eq_ok.2 hy, hscan]

end Sys2Proof.Machine

namespace Sys2Proof.Claims

open Sys2Proof.Machine

/-- Settles O28: the bytes before slot `j` of source `k` raise nothing, and the scan faults on that one. -/
theorem spriteBlitFirstFaultWins : Obligations.SpriteBlitFirstFaultWins := by
  intro s srcs xa ya rows ox oy k j hread hk hj hfine
  obtain ⟨post, hgrid⟩ := spriteGrid_split rows (n := 8 * k + j) (by omega)
  rw [spriteByteAt_place rows hj] at hgrid
  have hpre : ∀ b ∈ (List.range (8 * k + j)).map (spriteByteAt rows), ∃ c, paramColor s.params b.code = some c ∧
      (c = .transparent ∨ onScreen s.params (spritePosition s.params.spriteLayout ox.toInt oy.toInt b) = true) := by
    intro b hb
    obtain ⟨n, hn, rfl⟩ := List.mem_map.1 hb
    have hlt : n < 8 * k + j := List.mem_range.1 hn
    have hn' := hfine (n / 8) (by omega) (n % 8) (by omega) (by omega)
    simpa only [spriteByteFine, spriteByteAt, spritePosition_eq_spriteAt, onScreen_iff_inside] using hn'
  have raises {r : Raised} (h : spriteScan s.params ox.toInt oy.toInt (⟨k, j, slotOf (rows k) j⟩ :: post) = .error r) :=
    exec_spriteBlit_of_scan_error hread (hgrid ▸ spriteScan_append_error hpre h)
  refine ⟨fun hc => raises (spriteScan_cons_unmapped hc post), fun c hc ht hout => ?_⟩
  have hout' : onScreen s.params (spriteAt s.params ox oy k j) = false :=
    Bool.eq_false_iff.2 fun hon => hout (onScreen_iff_inside.1 hon)
  rw [← spritePosition_eq_spriteAt _ _ _ _ _ (slotOf (rows k) j)] at hout' ⊢
  exact raises (spriteScan_cons_outside hc ht hout' post)

end Sys2Proof.Claims
end

section
/-! PROOFS. Two numeric operands (O37, O40): they are read, and then their kinds decide whether an instruction has a
meaning for them. -/

namespace Sys2Proof.Machine

variable {s : State} {l r d : Byte} {vl vr : CellValue}

/-- What the first check of a sequence raises, the sequence raises. -/
theorem checked_bind_error {α β : Type} {x : Checked α} {f : α → Checked β} {e : Raised} (h : x = .error e) :
    (x >>= f) = .error e := by
  rw [h, checked_error_bind]

/-! ### Operands of the kind an integer instruction takes (R124, R131) -/

theorem intArith_of_ints (op : Int → Int → Int) {x y : Word} (ha : 0xFF#8 ∉ [l, r, d]) (hl : s.cell l = .int x)
    (hr : s.cell r = .int y) : intArith op l r d s =
      narrow x.toInt y.toInt (op x.toInt y.toInt) >>= fun v => .ok (s.setCell d (.int v)) := by
  have hargs : intOperands s l r d = .ok (x.toInt, y.toInt) := intOperands_eq_ok.2 ⟨ha, x, y, hl, hr, rfl⟩
  simp [intArith, hargs]

/-- A result in the range of `i64` has a word. -/
theorem exists_narrow_eq_ok {v : Int} (a b : Int) (hmin : -2 ^ 63 ≤ v) (hmax : v < 2 ^ 63) :
    ∃ w, narrow a b v = .ok w ∧ w.toInt = v := by
  have hv : (BitVec.ofInt 64 v).toInt = v := by
    rw [BitVec.toInt_ofInt, Int.bmod_eq_of_le] <;> omega
  exact ⟨_, narrow_eq_ok.2 ⟨hmin, hmax, hv⟩, hv⟩

/-! ### Operands of the wrong kinds (R124, R137) -/

theorem intOperands_mixed (h : numericOperands s l r d = .ok (vl, vr))
    (hbad : (∃ f, vl = .float f) ∨ ∃ f, vr = .float f) : intOperands s l r d = .error (mixedNumeric vl vr) := by
  rw [intOperands, h, checked_ok_bind]
  rcases hbad with ⟨f, rfl⟩ | ⟨f, rfl⟩
  · rfl
  · cases vl <;> rfl

theorem floatOperands_mixed (h : numericOperands s l r d = .ok (vl, vr))
    (hbad : (∃ i, vl = .int i) ∨ ∃ i, vr = .int i) : floatOperands s l r d = .error (mixedNumeric vl vr) := by
  rw [floatOperands, h, checked_ok_bind]
  rcases hbad with ⟨i, rfl⟩ | ⟨i, rfl⟩
  · rfl
  · cases vl <;> rfl

theorem compareCells_mixed (onInt : Int → Int → Bool) (onFloat : Word → Word → Bool)
    (hbad : (∃ i f, vl = .int i ∧ vr = .float f) ∨ ∃ f i, vl = .float f ∧ vr = .int i) :
    compareCells onInt onFloat (vl, vr) = .error (mixedNumeric vl vr) := by
  rcases hbad with ⟨i, f, rfl, rfl⟩ | ⟨f, i, rfl, rfl⟩ <;> rfl

end Sys2Proof.Machine

namespace Sys2Proof.Claims

open Sys2Proof.Machine

/-- An integer instruction whose effect is `intArith op` writes the exact result, or overflows. -/
theorem intResult_of_intArith {mk : Byte → Byte → Byte → Instr} {op : Int → Int → Int}
    (he : ∀ l r d s, exec (mk l r d) s = s.perform (mk l r d) (intArith op l r d))
    (hlen : ∀ l r d, (mk l r d).length = 4) : intResult mk op := by
  rintro s l r d x y ⟨hl, hr, hd⟩ hx hy
  have ha : 0xFF#8 ∉ [l, r, d] := by simp [hl.symm, hr.symm, hd.symm]
  have heffect := intArith_of_ints (s := s.past 4) op ha hx hy
  rw [he]
  refine ⟨fun hmin hmax => ?_, fun hout => ?_⟩
  · obtain ⟨w, hw, hval⟩ := exists_narrow_eq_ok x.toInt y.toInt hmin hmax
    rw [hw] at heffect
    exact ⟨_, w, perform_completes (by rw [hlen, heffect, checked_ok_bind]), writesCell_past_setCell .., hval⟩
  · rw [narrow_of_overflow hout] at heffect
    exact perform_raises (r := raiseUnmodelled ..) (by rw [hlen, heffect, checked_error_bind])

/-- Settles O37: the three instructions differ in their operation alone. -/
theorem integerInstructionsAreExact : Obligations.IntegerInstructionsAreExact :=
  ⟨intResult_of_intArith exec_add fun _ _ _ => rfl, intResult_of_intArith exec_sub fun _ _ _ => rfl,
    intResult_of_intArith exec_mul fun _ _ _ => rfl⟩

/-- An effect that raises MIXED_NUMERIC for the numeric operands that `bad` names. -/
def RejectsMixed (f : Byte → Byte → Byte → State → Checked State) (bad : CellValue → CellValue → Prop) : Prop :=
  ∀ l r d s vl vr, numericOperands s l r d = .ok (vl, vr) → bad vl vr → f l r d s = .error (mixedNumeric vl vr)

/-- The kinds a float instruction has no meaning for. -/
abbrev someInt (vl vr : CellValue) : Prop :=
  (∃ i, vl = .int i) ∨ ∃ i, vr = .int i

/-- The kinds an integer instruction has no meaning for. -/
abbrev someFloat (vl vr : CellValue) : Prop :=
  (∃ f, vl = .float f) ∨ ∃ f, vr = .float f

theorem RejectsMixed.floatArith (op : Word → Word → Option Word) : RejectsMixed (Machine.floatArith op) someInt := by
  intro l r d s vl vr h hbad
  exact checked_bind_error (floatOperands_mixed h hbad)

theorem RejectsMixed.intArith (op : Int → Int → Int) : RejectsMixed (Machine.intArith op) someFloat := by
  intro l r d s vl vr h hbad
  exact checked_bind_error (intOperands_mixed h hbad)

theorem RejectsMixed.compareInto (onInt : Int → Int → Bool) (onFloat : Word → Word → Bool) :
    RejectsMixed (Machine.compareInto onInt onFloat) fun vl vr =>
      (∃ i f, vl = .int i ∧ vr = .float f) ∨ ∃ f i, vl = .float f ∧ vr = .int i := by
  intro l r d s vl vr h hbad
  rw [Machine.compareInto, h, checked_ok_bind, compareCells_mixed _ _ hbad, checked_error_bind]

/-- An instruction that performs such an effect faults on those operands. -/
theorem mixedFaults_of_rejects {mk : Byte → Byte → Byte → Instr} {f : Byte → Byte → Byte → State → Checked State}
    {bad : CellValue → CellValue → Prop} (hf : RejectsMixed f bad)
    (he : ∀ l r d s, exec (mk l r d) s = s.perform (mk l r d) (f l r d)) : mixedFaults mk bad := by
  rintro s l r d ⟨hl, hr, hd⟩ hvl hvr hbad
  have ha : 0xFF#8 ∉ [l, r, d] := by simp [hl.symm, hr.symm, hd.symm]
  have hargs : numericOperands (s.past (mk l r d).length) l r d = .ok (s.cell l, s.cell r) :=
    numericOperands_eq_ok.2 ⟨ha, rfl, rfl, hvl, hvr⟩
  rw [he]
  exact perform_raises (r := mixedNumeric ..) (hf _ _ _ _ _ _ hargs hbad)

/-- Settles O40: every effect looks at the kinds of its operands right after reading them; `DIV` alone has an effect of
its own. -/
theorem mixedNumericOperandsFault : Obligations.MixedNumericOperandsFault := by
  have hdiv : mixedFaults .div someFloat := by
    refine mixedFaults_of_rejects ?_ exec_div
    intro l r d s vl vr h hbad
    exact checked_bind_error (intOperands_mixed h hbad)
  simp only [Obligations.MixedNumericOperandsFault, List.forall_mem_cons, List.not_mem_nil, false_imp_iff, imp_true_iff,
    and_true]
  exact ⟨⟨mixedFaults_of_rejects (.floatArith _) exec_fadd, mixedFaults_of_rejects (.floatArith _) exec_fsub,
      mixedFaults_of_rejects (.floatArith _) exec_fmul, mixedFaults_of_rejects (.floatArith _) exec_fdiv⟩,
    ⟨mixedFaults_of_rejects (.intArith _) exec_add, mixedFaults_of_rejects (.intArith _) exec_sub,
      mixedFaults_of_rejects (.intArith _) exec_mul, hdiv⟩,
    mixedFaults_of_rejects (.compareInto _ _) exec_gt, mixedFaults_of_rejects (.compareInto _ _) exec_lt⟩

end Sys2Proof.Claims
end

section
/-! PROOFS. The address 0xFF (O51): every instruction checks its addresses before it reads a cell, after at most one
code byte. -/

namespace Sys2Proof.Machine

open Sys2Proof.Claims

/-- The fault of the address 0xFF (R54). -/
abbrev addressFF : Raised :=
  raiseUnmodelled .addressOutOfRange (.byte 0xFF#8)

variable {s : State} {i : Instr} {l r d : Byte}

/-! ### The checks that raise it -/

theorem checkAddrs_of_mem {as : List Byte} (h : 0xFF#8 ∈ as) : checkAddrs as = .error addressFF := by
  rw [checkAddrs_eq, if_pos h]

theorem checkAddr_of_mem {a : Byte} (h : 0xFF#8 ∈ [a]) : checkAddr a = .error addressFF := by
  rw [← List.mem_singleton.1 h]
  exact checkAddr_ff

theorem numericOperands_addressFF (h : 0xFF#8 ∈ [l, r, d]) : numericOperands s l r d = .error addressFF :=
  checked_bind_error (checkAddrs_of_mem h)

theorem literal_addressFF {t : Byte} (p : Octet) (ht : (paramTag s.params t).isSome) (h : 0xFF#8 ∈ [d]) :
    literal t p d s = .error addressFF := by
  obtain ⟨k, hk⟩ := Option.isSome_iff_exists.1 ht
  rw [literal, tagDecode_eq_ok.2 hk, checked_ok_bind]
  exact checked_bind_error (checkAddr_of_mem h)

/-! ### The instructions that make such a check -/

/-- `i` faults on the address 0xFF in the state `s`. -/
abbrev FaultsAddressFF (i : Instr) (s : State) : Prop :=
  exec i s = .next (s.faultedBy i .unmodelled (some .addressOutOfRange) (.byte 0xFF#8))

/-- The first check of the effect raises the fault. -/
theorem FaultsAddressFF.of_check {α : Type} {x : State → Checked α} {f : State → α → Checked State}
    (he : exec i s = s.perform i fun s => x s >>= f s) (hx : x (s.past i.length) = .error addressFF) :
    FaultsAddressFF i s :=
  he.trans (perform_raises (r := addressFF) (checked_bind_error hx))

/-- What reads its numeric operands first raises the fault of their addresses. -/
theorem FaultsAddressFF.of_reads {mk : Byte → Byte → Byte → Instr} {f : Byte → Byte → Byte → State → Checked State}
    (he : ∀ l r d s, exec (mk l r d) s = s.perform (mk l r d) (f l r d)) (hf : ReadsNumericOperands f)
    (h : 0xFF#8 ∈ [l, r, d]) : FaultsAddressFF (mk l r d) s :=
  (he ..).trans (perform_raises (r := addressFF) (hf _ _ _ _ _ (numericOperands_addressFF h)))

end Sys2Proof.Machine

namespace Sys2Proof.Claims

open Sys2Proof.Machine

/-- Settles O51, instruction by instruction: the check of the addresses comes first, or after the code byte that the
premise says is mapped. -/
theorem addressFFFaults : Obligations.AddressFFFaults := by
  intro i s haddr hcode
  change FaultsAddressFF i s
  cases i with
  | nop | pixelLit | jmp | render | clear => exact absurd haddr List.not_mem_nil
  | pixelMem xa ya b => exact .of_check (exec_pixelMem xa ya b s) (checkAddrs_of_mem haddr)
  | spriteBlit srcs xa ya => exact .of_check (exec_spriteBlit srcs xa ya s) (checkAddrs_of_mem haddr)
  | fdiv l r d => exact .of_reads exec_fdiv (.floatArith _) haddr
  | fsub l r d => exact .of_reads exec_fsub (.floatArith _) haddr
  | fadd l r d => exact .of_reads exec_fadd (.floatArith _) haddr
  | fmul l r d => exact .of_reads exec_fmul (.floatArith _) haddr
  | div l r d => exact .of_reads exec_div (fun _ _ _ _ _ h => checked_bind_error (intOperands_error h)) haddr
  | sub l r d => exact .of_reads exec_sub (.intArith _) haddr
  | add l r d => exact .of_reads exec_add (.intArith _) haddr
  | mul l r d => exact .of_reads exec_mul (.intArith _) haddr
  | notCell a d => exact .of_check (exec_notCell a d s) (checkAddrs_of_mem haddr)
  | gt l r d => exact .of_reads exec_gt (.compareInto _ _) haddr
  | lt l r d => exact .of_reads exec_lt (.compareInto _ _) haddr
  | varSet t p d => exact .of_check (exec_varSet t p d s) (literal_addressFF (s := s.past 11) p hcode haddr)
  | letCell t p d => exact .of_check (exec_letCell t p d s) (literal_addressFF (s := s.past 11) p hcode haddr)
  | arrayWrite a n v => exact .of_check (exec_arrayWrite a n v s) (checkAddr_of_mem haddr)
  | tjmp a o => exact .of_check (exec_tjmp a o s) (checkAddr_of_mem haddr)
  | fjmp a o => exact .of_check (exec_fjmp a o s) (checkAddr_of_mem haddr)
  | vjmp a => exact .of_check (exec_vjmp a s) (checkAddr_of_mem haddr)
  | key b d =>
    obtain ⟨k, hk⟩ := Option.isSome_iff_exists.1 hcode
    have hkey : keyDecode (s.past 3).params b = .ok k := keyDecode_eq_ok.2 hk
    refine (exec_key b d s).trans (perform_raises (r := addressFF) ?_)
    rw [show (Instr.key b d).length = 3 from rfl, hkey, checked_ok_bind]
    exact checked_bind_error (checkAddr_of_mem haddr)

end Sys2Proof.Claims
end

section
/-! PROOFS. The numbers that patterns stand for, and the float operations on the operands they single out: a NaN, an
infinity, a zero, and two finite operands (O34, O35). -/

namespace Sys2Proof.Machine

/-! ### Signs -/

/-- The sign that a sign bit stands for. -/
def signOf (neg : Bool) : ℚ :=
  if neg then -1 else 1

@[simp] theorem signOf_not (neg : Bool) : signOf (!neg) = -signOf neg := by
  cases neg <;> simp [signOf]

theorem signOf_bne (a b : Bool) : signOf (a != b) = signOf a * signOf b := by
  cases a <;> cases b <;> simp [signOf]

theorem signOf_le_one (neg : Bool) : signOf neg ≤ 1 := by
  cases neg <;> simp [signOf]

theorem abs_signOf (neg : Bool) : |signOf neg| = 1 := by
  cases neg <;> simp [signOf]

theorem signOf_mul_self (neg : Bool) : signOf neg * signOf neg = 1 := by
  cases neg <;> simp [signOf]

theorem inv_signOf (neg : Bool) : (signOf neg)⁻¹ = signOf neg := by
  cases neg <;> simp [signOf, inv_neg]

theorem f64Value_eq (b : Word) : f64Value b = signOf (f64Neg b) * f64Significand b * (2 : ℚ) ^ f64Scale b := rfl

theorem signedRatio_eq (neg : Bool) (n d : Nat) (e : Int) :
    signedRatio neg n d e = signOf neg * (n / d) * (2 : ℚ) ^ e := rfl

/-- The sign and the magnitude of an integer, as the operations take it apart. -/
theorem signOf_mul_natAbs (v : Int) : signOf (decide (v < 0)) * (v.natAbs : ℚ) = v := by
  have habs : (v.natAbs : ℚ) = |(v : ℚ)| := by
    rw [Nat.cast_natAbs, Int.cast_abs]
  by_cases hv : v < 0
  · have hq : (v : ℚ) < 0 := Int.cast_lt_zero.2 hv
    simp [signOf, hv, habs, abs_of_neg hq]
  · have hq : (0 : ℚ) ≤ v := Int.cast_nonneg (not_lt.1 hv)
    simp [signOf, hv, habs, abs_of_nonneg hq]

/-! ### Kinds of patterns -/

section Kinds

variable {b : Word}

theorem isNaN_of_finite (h : f64Finite b = true) : f64IsNaN b = false :=
  ((f64Finite_iff b).1 h).1

theorem isInf_of_finite (h : f64Finite b = true) : f64IsInf b = false :=
  ((f64Finite_iff b).1 h).2

theorem magnitude_of_isInf (h : f64IsInf b = true) : f64Magnitude b = 2047 * 2 ^ 52 :=
  of_decide_eq_true h

theorem magnitude_of_isZero (h : f64IsZero b = true) : f64Magnitude b = 0 :=
  of_decide_eq_true h

theorem isNaN_of_isInf (h : f64IsInf b = true) : f64IsNaN b = false := by
  simp [f64IsNaN, f64InfMagnitude, magnitude_of_isInf h]

theorem finite_of_isZero (h : f64IsZero b = true) : f64Finite b = true := by
  simp [f64Finite, f64InfMagnitude, magnitude_of_isZero h]

theorem isZero_of_isInf (h : f64IsInf b = true) : f64IsZero b = false := by
  simp [f64IsZero, magnitude_of_isInf h]

@[simp] theorem f64Negate_isNaN (b : Word) : f64IsNaN (f64Negate b) = f64IsNaN b := by
  simp [f64IsNaN]

@[simp] theorem f64Negate_isInf (b : Word) : f64IsInf (f64Negate b) = f64IsInf b := by
  simp [f64IsInf]

@[simp] theorem f64Negate_finite (b : Word) : f64Finite (f64Negate b) = f64Finite b := by
  simp [f64Finite]

theorem isZero_eq_false (h : f64Value b ≠ 0) : f64IsZero b = false :=
  Bool.eq_false_iff.2 fun hz => h (f64Value_of_isZero hz)

/-- The fraction is a field of the magnitude. -/
theorem f64Frac_eq (b : Word) : f64Frac b = f64Magnitude b % 2 ^ 52 := by
  rw [f64Frac, f64Magnitude, Nat.mod_mod_of_dvd _ (by decide)]

@[simp] theorem f64Negate_exp (b : Word) : f64Exp (f64Negate b) = f64Exp b := by
  simp [f64Exp]

@[simp] theorem f64Negate_frac (b : Word) : f64Frac (f64Negate b) = f64Frac b := by
  simp [f64Frac_eq]

theorem f64Value_negate (b : Word) : f64Value (f64Negate b) = -f64Value b := by
  simp only [f64Value_eq, f64Significand, f64Scale, f64Negate_exp, f64Negate_frac, f64Negate_neg, signOf_not, neg_mul]

end Kinds

/-! ### The exact value of a finite pattern in units of `2 ^ e` -/

theorem f64Exact_mul_zpow {b : Word} {e : Int} (he : e ≤ f64Scale b) :
    (f64Exact b e : ℚ) * (2 : ℚ) ^ e = f64Value b := by
  have hsign : (f64Exact b e : ℚ) = signOf (f64Neg b) * (f64Significand b * 2 ^ (f64Scale b - e).toNat) := by
    unfold f64Exact signOf
    cases f64Neg b <;> simp
  have hpow : (2 : ℚ) ^ (f64Scale b - e).toNat * (2 : ℚ) ^ e = (2 : ℚ) ^ f64Scale b := by
    rw [← zpow_natCast, Int.toNat_of_nonneg (by omega), ← zpow_add₀ two_ne_zero, Int.sub_add_cancel]
  rw [hsign, f64Value_eq, ← hpow]
  ring

/-! ### FADD and FSUB (R127, R128) -/

section Sum

variable {l r : Word}

/-- The sum of two patterns in units of the smaller of their last places. -/
def exactSum (l r : Word) : Int :=
  f64Exact l (min (f64Scale l) (f64Scale r)) + f64Exact r (min (f64Scale l) (f64Scale r))

theorem exactSum_mul_zpow (l r : Word) :
    (exactSum l r : ℚ) * (2 : ℚ) ^ min (f64Scale l) (f64Scale r) = f64Value l + f64Value r := by
  rw [exactSum, Int.cast_add, add_mul, f64Exact_mul_zpow (min_le_left _ _), f64Exact_mul_zpow (min_le_right _ _)]

theorem exactSum_eq_zero : exactSum l r = 0 ↔ f64Value l + f64Value r = 0 := by
  rw [← exactSum_mul_zpow]
  simp [zpow_ne_zero]

theorem fadd64_eq_none : fadd64 l r = none ↔ f64IsNaN l = true ∨ f64IsNaN r = true ∨
    (f64IsInf l = true ∧ f64IsInf r = true ∧ f64Neg l ≠ f64Neg r) := by
  unfold fadd64
  split
  next hnan => exact iff_of_true rfl (or_assoc.1 (.inl (by simpa using hnan)))
  next hnan =>
    split
    next hl => split <;> simp_all
    next hl =>
      split
      next hr => simp_all
      next hr => dsimp only; split <;> simp_all

theorem fadd64_inf_left (hl : f64IsInf l = true) (hr : f64IsNaN r = false)
    (hsign : f64IsInf r = true → f64Neg l = f64Neg r) : fadd64 l r = some l := by
  have hand : (f64IsInf r && f64Neg l != f64Neg r) = false := by
    cases hi : f64IsInf r
    · rfl
    · simp [hsign hi]
  simp [fadd64, isNaN_of_isInf hl, hr, hl, hand]

theorem fadd64_inf_right (hl : f64Finite l = true) (hr : f64IsInf r = true) : fadd64 l r = some r := by
  simp [fadd64, isNaN_of_finite hl, isNaN_of_isInf hr, isInf_of_finite hl, hr]

theorem fadd64_of_finite (hl : f64Finite l = true) (hr : f64Finite r = true) :
    fadd64 l r = some (if exactSum l r = 0 then f64Pack (f64Neg l && f64Neg r) 0
      else f64Round (decide (exactSum l r < 0)) (exactSum l r).natAbs 1 (min (f64Scale l) (f64Scale r))) := by
  simp only [fadd64, isNaN_of_finite hl, isNaN_of_finite hr, isInf_of_finite hl, isInf_of_finite hr, Bool.or_self,
    Bool.false_eq_true, if_false, apply_ite some]
  rfl

/-- Two finite operands that cancel (R127). -/
theorem fadd64_of_cancel (hl : f64Finite l = true) (hr : f64Finite r = true) (h : f64Value l + f64Value r = 0) :
    fadd64 l r = some (f64Pack (f64Neg l && f64Neg r) 0) := by
  rw [fadd64_of_finite hl hr, if_pos (exactSum_eq_zero.2 h)]

/-- Two finite operands that do not cancel: their exact sum is rounded once (R126). -/
theorem fadd64_rounds (hl : f64Finite l = true) (hr : f64Finite r = true) (h : f64Value l + f64Value r ≠ 0) :
    ∃ neg n d e, 0 < n ∧ 0 < d ∧ signedRatio neg n d e = f64Value l + f64Value r ∧
      fadd64 l r = some (f64Round neg n d e) := by
  have hne : exactSum l r ≠ 0 := fun hz => h (exactSum_eq_zero.1 hz)
  refine ⟨_, _, 1, _, Int.natAbs_pos.2 hne, one_pos, ?_, by rw [fadd64_of_finite hl hr, if_neg hne]⟩
  rw [signedRatio_eq, Nat.cast_one, div_one, signOf_mul_natAbs, exactSum_mul_zpow]

end Sum

/-! ### FMUL (R129) -/

section Product

variable {l r : Word}

theorem fmul64_eq_none : fmul64 l r = none ↔ f64IsNaN l = true ∨ f64IsNaN r = true ∨
    (f64IsInf l = true ∧ f64IsZero r = true) ∨ (f64IsZero l = true ∧ f64IsInf r = true) := by
  unfold fmul64
  dsimp only
  split
  next hnan => exact iff_of_true rfl (or_assoc.1 (.inl (by simpa using hnan)))
  next hnan =>
    have hzl := isZero_of_isInf (b := l)
    have hzr := isZero_of_isInf (b := r)
    split
    next hinf =>
      simp only [Bool.or_eq_true] at hinf
      rcases hinf with hinf | hinf <;> split <;> simp_all
    next hinf => split <;> simp_all

theorem fmul64_inf (hinf : f64IsInf l = true ∨ f64IsInf r = true) (hnl : f64IsNaN l = false) (hnr : f64IsNaN r = false)
    (hzl : f64IsZero l = false) (hzr : f64IsZero r = false) :
    fmul64 l r = some (f64Inf (f64Neg l != f64Neg r)) := by
  rcases hinf with h | h <;> simp [fmul64, hnl, hnr, hzl, hzr, h]

theorem fmul64_zero (hl : f64Finite l = true) (hr : f64Finite r = true)
    (hz : f64IsZero l = true ∨ f64IsZero r = true) : fmul64 l r = some (f64Pack (f64Neg l != f64Neg r) 0) := by
  rcases hz with h | h <;>
    simp [fmul64, isNaN_of_finite hl, isNaN_of_finite hr, isInf_of_finite hl, isInf_of_finite hr, h]

theorem significand_pos {b : Word} (h : f64Value b ≠ 0) : 0 < f64Significand b :=
  Nat.pos_of_ne_zero fun hz => h (f64Value_of_isZero ((f64IsZero_iff b).2 hz))

theorem fmul64_rounds (hl : f64Finite l = true) (hr : f64Finite r = true) (h : f64Value l * f64Value r ≠ 0) :
    ∃ neg n d e, 0 < n ∧ 0 < d ∧ signedRatio neg n d e = f64Value l * f64Value r ∧
      fmul64 l r = some (f64Round neg n d e) := by
  have hvl : f64Value l ≠ 0 := left_ne_zero_of_mul h
  have hvr : f64Value r ≠ 0 := right_ne_zero_of_mul h
  refine ⟨f64Neg l != f64Neg r, f64Significand l * f64Significand r, 1, f64Scale l + f64Scale r,
    Nat.mul_pos (significand_pos hvl) (significand_pos hvr), one_pos, ?_, ?_⟩
  · rw [signedRatio_eq, signOf_bne, zpow_add₀ two_ne_zero, f64Value_eq, f64Value_eq]
    push_cast
    ring
  · simp [fmul64, isNaN_of_finite hl, isNaN_of_finite hr, isInf_of_finite hl, isInf_of_finite hr, isZero_eq_false hvl,
      isZero_eq_false hvr]

end Product

/-! ### FDIV (R130) -/

section Quotient

variable {l r : Word}

theorem fdiv64_eq_none : fdiv64 l r = none ↔ f64IsNaN l = true ∨ f64IsNaN r = true ∨
    (f64IsInf l = true ∧ f64IsInf r = true) ∨ (f64IsZero l = true ∧ f64IsZero r = true) := by
  unfold fdiv64
  dsimp only
  split
  next hnan => exact iff_of_true rfl (or_assoc.1 (.inl (by simpa using hnan)))
  next hnan =>
    have hzl := isZero_of_isInf (b := l)
    have hzr := isZero_of_isInf (b := r)
    split
    next hl => split <;> simp_all
    next hl =>
      split
      next hr => simp_all
      next hr =>
        split
        next hz => split <;> simp_all
        next hz => split <;> simp_all

theorem fdiv64_inf_left (hl : f64IsInf l = true) (hr : f64Finite r = true) :
    fdiv64 l r = some (f64Inf (f64Neg l != f64Neg r)) := by
  simp [fdiv64, isNaN_of_isInf hl, isNaN_of_finite hr, hl, isInf_of_finite hr]

theorem fdiv64_inf_right (hl : f64Finite l = true) (hr : f64IsInf r = true) :
    fdiv64 l r = some (f64Pack (f64Neg l != f64Neg r) 0) := by
  simp [fdiv64, isNaN_of_isInf hr, isNaN_of_finite hl, hr, isInf_of_finite hl]

theorem fdiv64_by_zero (hl : f64Finite l = true) (hzl : f64IsZero l = false) (hzr : f64IsZero r = true) :
    fdiv64 l r = some (f64Inf (f64Neg l != f64Neg r)) := by
  have hr : f64Finite r = true := finite_of_isZero hzr
  simp [fdiv64, isNaN_of_finite hl, isNaN_of_finite hr, isInf_of_finite hl, isInf_of_finite hr, hzl, hzr]

theorem fdiv64_zero (hzl : f64IsZero l = true) (hr : f64Finite r = true) (hzr : f64IsZero r = false) :
    fdiv64 l r = some (f64Pack (f64Neg l != f64Neg r) 0) := by
  have hl : f64Finite l = true := finite_of_isZero hzl
  simp [fdiv64, isNaN_of_finite hl, isNaN_of_finite hr, isInf_of_finite hl, isInf_of_finite hr, hzl, hzr]

theorem fdiv64_rounds (hl : f64Finite l = true) (hr : f64Finite r = true) (hvr : f64Value r ≠ 0)
    (hvl : f64Value l ≠ 0) : ∃ neg n d e, 0 < n ∧ 0 < d ∧ signedRatio neg n d e = f64Value l / f64Value r ∧
      fdiv64 l r = some (f64Round neg n d e) := by
  refine ⟨f64Neg l != f64Neg r, f64Significand l, f64Significand r, f64Scale l - f64Scale r, significand_pos hvl,
    significand_pos hvr, ?_, ?_⟩
  · rw [signedRatio_eq, signOf_bne, zpow_sub₀ two_ne_zero, f64Value_eq, f64Value_eq,
      div_eq_mul_inv (signOf _ * _ * _), mul_inv, mul_inv, inv_signOf]
    ring
  · simp [fdiv64, isNaN_of_finite hl, isNaN_of_finite hr, isInf_of_finite hl, isInf_of_finite hr, isZero_eq_false hvl,
      isZero_eq_false hvr]

end Quotient

end Sys2Proof.Machine

namespace Sys2Proof.Claims

open Sys2Proof.Machine

/-- Settles O35: each operation on finite operands is one rounding of its exact result. -/
theorem floatOperationsRoundTheExactResult : Obligations.FloatOperationsRoundTheExactResult := by
  intro x y hx hy
  refine ⟨fadd64_rounds hx hy, fun h => ?_, fmul64_rounds hx hy, fdiv64_rounds hx hy⟩
  have hy' : f64Finite (f64Negate y) = true := by rwa [f64Negate_finite]
  rw [sub_eq_add_neg, ← f64Value_negate] at h ⊢
  exact fadd64_rounds hx hy' h

/-- Settles O34: FSUB is FADD with its right operand negated, and each other clause is one case of its operation. -/
theorem floatSpecialCases : Obligations.FloatSpecialCases := by
  intro x y
  refine ⟨fadd64_eq_none, ?_, fmul64_eq_none, fdiv64_eq_none, fun hx hy => ?_, fadd64_inf_right, fadd64_of_cancel,
    fun hx hy => ?_, fun hx hy hne => ?_, fun hx hy => ?_, fun hx hy h => ?_, fun hx => ?_, fun hx hny hzy => ?_,
    fun hy hnx hzx => ?_, fun hx hzy => ?_, fun hzx hy => ?_, fdiv64_inf_left, fdiv64_inf_right, fdiv64_by_zero,
    fdiv64_zero⟩
  · simp [fsub64, fadd64_eq_none, Bool.eq_not]
  · rcases hy with hy | rfl
    · exact fadd64_inf_left hx (isNaN_of_finite hy) (by simp [isInf_of_finite hy])
    · exact fadd64_inf_left hx (isNaN_of_isInf hx) fun _ => rfl
  · exact fadd64_inf_left hx (by simpa using isNaN_of_finite hy) (by simp [isInf_of_finite hy])
  · exact fadd64_inf_left hx (by simpa using isNaN_of_isInf hy) fun _ => by simpa [Bool.eq_not] using hne
  · have hy' : f64IsInf (f64Negate y) = true := by rwa [f64Negate_isInf]
    rw [fsub64, fadd64_inf_right hx hy', f64Inf_of_isInf hy', f64Negate_neg]
  · have h' : f64Value x + f64Value (f64Negate y) = 0 := by rw [f64Value_negate, ← sub_eq_add_neg, h]
    rw [fsub64, fadd64_of_cancel hx (by rwa [f64Negate_finite]) h', f64Negate_neg]
  · have h' : f64Value x + f64Value (f64Negate x) = 0 := by rw [f64Value_negate, add_neg_cancel]
    rw [fsub64, fadd64_of_cancel hx (by rwa [f64Negate_finite]) h', f64Negate_neg, Bool.and_not_self]
    rfl
  · exact fmul64_inf (.inl hx) (isNaN_of_isInf hx) hny (isZero_of_isInf hx) hzy
  · exact fmul64_inf (.inr hy) hnx (isNaN_of_isInf hy) hzx (isZero_of_isInf hy)
  · exact fmul64_zero hx (finite_of_isZero hzy) (.inr hzy)
  · exact fmul64_zero (finite_of_isZero hzx) hy (.inl hzx)

end Sys2Proof.Claims
end

section
/-! PROOFS. Magnitudes in units of the last place of the subnormals: they rise with the magnitude pattern, so the order
that the comparisons use is the order of the numbers (O42). -/

namespace Sys2Proof.Machine

/-! ### Magnitudes in units of `2 ^ -1074` -/

/-- The number a magnitude pattern stands for, in units of `2 ^ -1074`. -/
def f64Units (m : Nat) : Nat :=
  (if m / 2 ^ 52 = 0 then m % 2 ^ 52 else 2 ^ 52 + m % 2 ^ 52) * 2 ^ (m / 2 ^ 52 - 1)

/-- The number of a significand `m` in the place `k` of its last bit, the significand one past the greatest included:
its carry into the exponent field is the successor in binary64. -/
theorem f64Units_place {k m : Nat} (hm : m ≤ 2 ^ 53) (hk : k = 0 ∨ 2 ^ 52 ≤ m) :
    f64Units (k * 2 ^ 52 + m) = m * 2 ^ k := by
  unfold f64Units
  rcases Nat.lt_or_ge m (2 ^ 52) with h | h
  · -- a subnormal
    obtain rfl : k = 0 := hk.resolve_right (Nat.not_le.2 h)
    have hexp : (0 * 2 ^ 52 + m) / 2 ^ 52 = 0 := by omega
    have hfrac : (0 * 2 ^ 52 + m) % 2 ^ 52 = m := by omega
    rw [hexp, hfrac, if_pos rfl]
  · rcases hm.lt_or_eq with h' | rfl
    · -- a normal number
      have hexp : (k * 2 ^ 52 + m) / 2 ^ 52 = k + 1 := by omega
      have hfrac : 2 ^ 52 + (k * 2 ^ 52 + m) % 2 ^ 52 = m := by omega
      rw [hexp, hfrac, if_neg (Nat.succ_ne_zero k), Nat.add_sub_cancel]
    · -- the carry
      have hexp : (k * 2 ^ 52 + 2 ^ 53) / 2 ^ 52 = k + 2 := by omega
      have hfrac : (k * 2 ^ 52 + 2 ^ 53) % 2 ^ 52 = 0 := by omega
      rw [hexp, hfrac, if_neg (Nat.succ_ne_zero _), Nat.add_zero, show k + 2 - 1 = k + 1 from rfl, pow_succ 2 k]
      ring

/-- Every magnitude pattern is a significand in a place. -/
theorem exists_place (m : Nat) : ∃ k f, m = k * 2 ^ 52 + f ∧ f < 2 ^ 53 ∧ (k = 0 ∨ 2 ^ 52 ≤ f) := by
  by_cases h : m / 2 ^ 52 = 0
  · exact ⟨0, m, by omega, by omega, .inl rfl⟩
  · exact ⟨m / 2 ^ 52 - 1, 2 ^ 52 + m % 2 ^ 52, by omega, by omega, .inr (by omega)⟩

/-- A greater magnitude pattern stands for a greater number. -/
theorem f64Units_strictMono : StrictMono f64Units := by
  refine strictMono_nat_of_lt_succ fun m => ?_
  obtain ⟨k, f, rfl, hf, hk⟩ := exists_place m
  rw [Nat.add_assoc, f64Units_place hf.le hk, f64Units_place hf (hk.imp_right Nat.le_succ_of_le)]
  exact Nat.mul_lt_mul_of_pos_right f.lt_succ_self (Nat.two_pow_pos k)

theorem f64Units_magnitude (b : Word) : f64Units (f64Magnitude b) = f64Significand b * 2 ^ (f64Exp b - 1) := by
  rw [f64Units, f64Significand, f64Frac_eq]
  rfl

theorem zpow_f64Scale (b : Word) : (2 : ℚ) ^ f64Scale b = (2 : ℚ) ^ (f64Exp b - 1) * (2 : ℚ) ^ (-1074 : Int) := by
  unfold f64Scale
  split
  next h => rw [h, Nat.zero_sub, pow_zero, one_mul]
  next h =>
    rw [← zpow_natCast, ← zpow_add₀ two_ne_zero]
    congr 1
    omega

theorem f64Value_eq_units (b : Word) :
    f64Value b = signOf (f64Neg b) * f64Units (f64Magnitude b) * (2 : ℚ) ^ (-1074 : Int) := by
  rw [f64Value_eq, f64Units_magnitude, zpow_f64Scale]
  simp only [Nat.cast_mul, Nat.cast_pow, Nat.cast_ofNat, mul_assoc]

/-! ### The order of the patterns that are not NaN -/

/-- The number of a signed magnitude pattern, in units of `2 ^ -1074`. -/
def signedUnits (z : Int) : Int :=
  z.sign * f64Units z.natAbs

theorem signedUnits_neg (z : Int) : signedUnits (-z) = -signedUnits z := by
  rw [signedUnits, signedUnits, Int.sign_neg, Int.natAbs_neg, neg_mul]

theorem signedUnits_natCast (m : Nat) : signedUnits m = f64Units m := by
  cases m with
  | zero => rfl
  | succ m => rw [signedUnits, Int.sign_eq_one_of_pos (Int.natCast_pos.2 m.succ_pos), one_mul, Int.natAbs_natCast]

theorem signedUnits_strictMono : StrictMono signedUnits := by
  refine strictMono_of_odd_strictMonoOn_nonneg signedUnits_neg ?_
  intro m hm n hn hlt
  lift m to Nat using hm
  lift n to Nat using hn
  rw [signedUnits_natCast, signedUnits_natCast, Nat.cast_lt]
  exact f64Units_strictMono (Nat.cast_lt.1 hlt)

theorem f64Value_eq_signedUnits (b : Word) : f64Value b = signedUnits (f64Order b) * (2 : ℚ) ^ (-1074 : Int) := by
  rw [f64Value_eq_units, f64Order, signOf]
  cases f64Neg b
  · simp [signedUnits_natCast]
  · simp [signedUnits_neg, signedUnits_natCast]

/-- The comparisons order finite patterns as their numbers (R137). -/
theorem f64Order_lt_iff {x y : Word} : f64Order x < f64Order y ↔ f64Value x < f64Value y := by
  rw [f64Value_eq_signedUnits, f64Value_eq_signedUnits, mul_lt_mul_iff_left₀ (zpow_pos two_pos _), Int.cast_lt,
    signedUnits_strictMono.lt_iff_lt]

/-- A pattern that is no NaN is the lower infinity, finite, or the upper infinity, in the order of the comparisons and
as the number it stands for. -/
theorem f64Extended_cases {b : Word} (h : f64IsNaN b = false) :
    (f64Order b = -f64InfMagnitude ∧ f64Extended b = ⊥) ∨
    ((-f64InfMagnitude < f64Order b ∧ f64Order b < f64InfMagnitude) ∧
      f64Extended b = (((f64Value b : ℚ) : WithTop ℚ) : WithBot (WithTop ℚ))) ∨
    (f64Order b = f64InfMagnitude ∧ f64Extended b = ((⊤ : WithTop ℚ) : WithBot (WithTop ℚ))) := by
  have hmag : f64Magnitude b ≤ f64InfMagnitude := not_lt.1 (of_decide_eq_false h)
  unfold f64Order f64Extended
  rcases hmag.lt_or_eq with hlt | heq
  · have hfin : f64IsInf b = false := decide_eq_false hlt.ne
    refine .inr (.inl ⟨?_, by rw [hfin]; rfl⟩)
    split <;> omega
  · have hinf : f64IsInf b = true := decide_eq_true heq
    rw [heq, hinf, if_pos rfl]
    cases f64Neg b with
    | true => exact .inl ⟨rfl, rfl⟩
    | false => exact .inr (.inr ⟨rfl, rfl⟩)

/-- The comparisons order the patterns that are not NaN as the numbers they stand for, infinities included (R137). -/
theorem f64Order_lt_iff_extended {x y : Word} (hx : f64IsNaN x = false) (hy : f64IsNaN y = false) :
    f64Order x < f64Order y ↔ f64Extended x < f64Extended y := by
  have hpos : (0 : Int) < f64InfMagnitude := by decide
  rcases f64Extended_cases hx with ⟨hox, hex⟩ | ⟨⟨hlx, hux⟩, hex⟩ | ⟨hox, hex⟩
  · rcases f64Extended_cases hy with ⟨hoy, hey⟩ | ⟨⟨hly, -⟩, hey⟩ | ⟨hoy, hey⟩ <;> rw [hex, hey]
    · exact iff_of_false (by omega) (lt_irrefl _)
    · exact iff_of_true (by omega) (WithBot.bot_lt_coe _)
    · exact iff_of_true (by omega) (WithBot.bot_lt_coe _)
  · rcases f64Extended_cases hy with ⟨hoy, hey⟩ | ⟨-, hey⟩ | ⟨hoy, hey⟩ <;> rw [hex, hey]
    · exact iff_of_false (by omega) not_lt_bot
    · rw [WithBot.coe_lt_coe, WithTop.coe_lt_coe, f64Order_lt_iff]
    · exact iff_of_true (by omega) (WithBot.coe_lt_coe.2 (WithTop.coe_lt_top _))
  · rcases f64Extended_cases hy with ⟨hoy, hey⟩ | ⟨⟨-, huy⟩, hey⟩ | ⟨hoy, hey⟩ <;> rw [hex, hey]
    · exact iff_of_false (by omega) not_lt_bot
    · exact iff_of_false (by omega) (not_lt.2 (WithBot.coe_le_coe.2 le_top))
    · exact iff_of_false (by omega) (lt_irrefl _)

theorem fgt64_eq_true {x y : Word} (hx : f64IsNaN x = false) (hy : f64IsNaN y = false) :
    fgt64 x y = true ↔ f64Extended x > f64Extended y := by
  rw [gt_iff_lt, ← f64Order_lt_iff_extended hy hx]
  simp [fgt64, hx, hy]

theorem flt64_eq_true {x y : Word} (hx : f64IsNaN x = false) (hy : f64IsNaN y = false) :
    flt64 x y = true ↔ f64Extended x < f64Extended y := by
  rw [← f64Order_lt_iff_extended hx hy]
  simp [flt64, hx, hy]

theorem fgt64_of_nan {x y : Word} (h : f64IsNaN x = true ∨ f64IsNaN y = true) : fgt64 x y = false := by
  rcases h with h | h <;> simp [fgt64, h]

theorem flt64_of_nan {x y : Word} (h : f64IsNaN x = true ∨ f64IsNaN y = true) : flt64 x y = false := by
  rcases h with h | h <;> simp [flt64, h]

/-! ### The effect of a comparison (R137) -/

theorem truth_eq_int (b : Bool) : truth b = .int (if b then 1 else 0) := by
  cases b <;> rfl

theorem compareInto_of_operands {s : State} {l r d : Byte} {onInt : Int → Int → Bool} {onFloat : Word → Word → Bool}
    {b : Bool} (ha : 0xFF#8 ∉ [l, r, d]) (hl : (s.cell l).numeric = true) (hr : (s.cell r).numeric = true)
    (hb : compareCells onInt onFloat (s.cell l, s.cell r) = .ok b) :
    compareInto onInt onFloat l r d s = .ok (s.setCell d (.int (if b then 1 else 0))) := by
  have hargs : numericOperands s l r d = .ok (s.cell l, s.cell r) := numericOperands_eq_ok.2 ⟨ha, rfl, rfl, hl, hr⟩
  rw [compareInto, hargs, checked_ok_bind, hb, checked_ok_bind, truth_eq_int]

end Sys2Proof.Machine

namespace Sys2Proof.Claims

open Sys2Proof.Machine

/-- An instruction whose effect is `compareInto onInt onFloat` writes whether the numbers compare so. -/
theorem compareResult_of_compareInto {mk : Byte → Byte → Byte → Instr} {onInt : Int → Int → Bool}
    {onFloat : Word → Word → Bool} {relInt : Int → Int → Prop}
    {relFloat : WithBot (WithTop ℚ) → WithBot (WithTop ℚ) → Prop}
    (he : ∀ l r d s, exec (mk l r d) s = s.perform (mk l r d) (compareInto onInt onFloat l r d))
    (hlen : ∀ l r d, (mk l r d).length = 4) (hint : ∀ x y, onInt x y = true ↔ relInt x y)
    (hnan : ∀ x y, f64IsNaN x = true ∨ f64IsNaN y = true → onFloat x y = false)
    (hfloat : ∀ x y, f64IsNaN x = false → f64IsNaN y = false →
      (onFloat x y = true ↔ relFloat (f64Extended x) (f64Extended y))) : compareResult mk relInt relFloat := by
  rintro s l r d x y ⟨hl, hr, hd⟩
  have ha : 0xFF#8 ∉ [l, r, d] := by simp [hl.symm, hr.symm, hd.symm]
  have hexec {vl vr : CellValue} {b : Bool} (hx : s.cell l = vl) (hy : s.cell r = vr) (hnl : vl.numeric = true)
      (hnr : vr.numeric = true) (hb : compareCells onInt onFloat (vl, vr) = .ok b) :
      exec (mk l r d) s = .next ((s.past 4).setCell d (.int (if b then 1 else 0))) := by
    subst hx hy
    rw [he]
    exact perform_completes (by rw [hlen]; exact compareInto_of_operands (s := s.past 4) ha hnl hnr hb)
  refine ⟨fun hx hy => ⟨_, _, hexec hx hy rfl rfl rfl, writesCell_past_setCell .., fun h => ?_, fun h => ?_⟩,
    fun hx hy => ⟨_, _, hexec hx hy rfl rfl rfl, writesCell_past_setCell .., ?_, fun h => ?_, fun hnx hny => ?_⟩⟩
  · rw [if_pos ((hint ..).2 h)]
  · rw [if_neg fun hb => h ((hint ..).1 hb)]
  · cases onFloat x y <;> simp
  · rw [hnan x y h]
    rfl
  · rw [← hfloat x y hnx hny]
    cases onFloat x y <;> simp

/-- Settles O42: GT and LT differ in their comparison alone. -/
theorem comparisonsOrderNumbers : Obligations.ComparisonsOrderNumbers :=
  ⟨compareResult_of_compareInto exec_gt (fun _ _ _ => rfl) (fun _ _ => decide_eq_true_iff) (fun _ _ => fgt64_of_nan)
      fun _ _ => fgt64_eq_true,
    compareResult_of_compareInto exec_lt (fun _ _ _ => rfl) (fun _ _ => decide_eq_true_iff) (fun _ _ => flt64_of_nan)
      fun _ _ => flt64_eq_true⟩

end Sys2Proof.Claims
end

section
/-! PROOFS. Rounding (O36): the exact magnitude is counted in the last place of its result, where it is rounded to the
nearest integer, and no finite pattern lies between two integers of that place (R126). -/

namespace Sys2Proof.Machine

/-! ### Powers of two with natural exponents -/

theorem zpow_eq_toNat_div (z : Int) : (2 : ℚ) ^ z = 2 ^ z.toNat / 2 ^ (-z).toNat := by
  rw [← zpow_natCast, ← zpow_natCast, ← zpow_sub₀ two_ne_zero]
  congr 1
  omega

section Exact

variable {n d : Nat}

/-! ### The leading bit of a ratio -/

theorem ratioLog2_lead_lt (hd : 0 < d) (z : Int) :
    n * 2 ^ (-z).toNat < d * 2 ^ z.toNat ↔ (n / d : ℚ) < 2 ^ z := by
  rw [zpow_eq_toNat_div, div_lt_div_iff₀ (by positivity) (by positivity), mul_comm (2 ^ z.toNat : ℚ)]
  norm_cast

/-- `ratioLog2` is the exponent of the leading bit. -/
theorem ratioLog2_spec (hn : 0 < n) (hd : 0 < d) :
    (2 : ℚ) ^ ratioLog2 n d ≤ n / d ∧ (n / d : ℚ) < 2 ^ (ratioLog2 n d + 1) := by
  have hd0 : (0 : ℚ) < d := Nat.cast_pos.2 hd
  have hnlo : (2 : ℚ) ^ (Nat.log2 n : Int) ≤ n := by
    exact_mod_cast Nat.log2_self_le hn.ne'
  have hnhi : (n : ℚ) < 2 ^ ((Nat.log2 n : Int) + 1) := by
    exact_mod_cast Nat.lt_log2_self
  have hdlo : (2 : ℚ) ^ (Nat.log2 d : Int) ≤ d := by
    exact_mod_cast Nat.log2_self_le hd.ne'
  have hdhi : (d : ℚ) < 2 ^ ((Nat.log2 d : Int) + 1) := by
    exact_mod_cast Nat.lt_log2_self
  have hlow : (2 : ℚ) ^ ((Nat.log2 n : Int) - Nat.log2 d - 1) ≤ n / d := by
    rw [le_div_iff₀ hd0]
    calc (2 : ℚ) ^ ((Nat.log2 n : Int) - Nat.log2 d - 1) * d
      _ ≤ 2 ^ ((Nat.log2 n : Int) - Nat.log2 d - 1) * 2 ^ ((Nat.log2 d : Int) + 1) := by gcongr
      _ = 2 ^ (Nat.log2 n : Int) := by rw [← zpow_add₀ two_ne_zero]; congr 1; ring
      _ ≤ n := hnlo
  have hhigh : (n / d : ℚ) < 2 ^ ((Nat.log2 n : Int) - Nat.log2 d + 1) := by
    rw [div_lt_iff₀ hd0]
    calc (n : ℚ) < 2 ^ ((Nat.log2 n : Int) + 1) := hnhi
      _ = 2 ^ ((Nat.log2 n : Int) - Nat.log2 d + 1) * 2 ^ (Nat.log2 d : Int) := by
        rw [← zpow_add₀ two_ne_zero]; congr 1; ring
      _ ≤ 2 ^ ((Nat.log2 n : Int) - Nat.log2 d + 1) * d := by gcongr
  unfold ratioLog2
  dsimp only
  split
  next h => exact ⟨hlow, by simpa using (ratioLog2_lead_lt hd _).1 h⟩
  next h => exact ⟨not_lt.1 fun hlt => h ((ratioLog2_lead_lt hd _).2 hlt), hhigh⟩

/-! ### Division to the nearest integer -/

theorem div_eq_quotient_add (hd : 0 < d) : (n / d : ℚ) = (n / d : Nat) + (n % d : Nat) / d := by
  have hd0 : (d : ℚ) ≠ 0 := Nat.cast_ne_zero.2 hd.ne'
  have hn : (n : ℚ) = d * (n / d : Nat) + (n % d : Nat) := by exact_mod_cast (Nat.div_add_mod n d).symm
  rw [eq_comm, add_div', div_left_inj' hd0, mul_comm, ← hn]
  exact hd0

/-- The rounded quotient is at most 1/2 away, and even when it is that far. -/
theorem divNearestEven_spec (hd : 0 < d) : |(divNearestEven n d : ℚ) - n / d| ≤ 1 / 2 ∧
    (|(divNearestEven n d : ℚ) - n / d| = 1 / 2 → divNearestEven n d % 2 = 0) := by
  have hd0 : (0 : ℚ) < d := Nat.cast_pos.2 hd
  have hrem : ((n % d : Nat) : ℚ) / d < 1 := (div_lt_one hd0).2 (Nat.cast_lt.2 (Nat.mod_lt n hd))
  have hrem0 : (0 : ℚ) ≤ (n % d : Nat) / d := by positivity
  have hup : 1 / 2 < ((n % d : Nat) : ℚ) / d ↔ d < 2 * (n % d) := by
    rw [div_lt_div_iff₀ two_pos hd0, one_mul, mul_comm]
    norm_cast
  have htie : ((n % d : Nat) : ℚ) / d = 1 / 2 ↔ 2 * (n % d) = d := by
    rw [div_eq_div_iff hd0.ne' two_ne_zero, one_mul, mul_comm]
    norm_cast
  rw [div_eq_quotient_add hd]
  unfold divNearestEven
  dsimp only
  split
  next h =>
    rw [← hup, ← htie] at h
    have habs : |((n / d + 1 : Nat) : ℚ) - ((n / d : Nat) + (n % d : Nat) / d)| = 1 - (n % d : Nat) / d := by
      rw [Nat.cast_add_one, add_sub_add_left_eq_sub, abs_of_pos (sub_pos.2 hrem)]
    rw [habs]
    rcases h with h | ⟨h, hodd⟩
    · exact ⟨by linarith, fun heq => by linarith⟩
    · exact ⟨by linarith, fun _ => by omega⟩
  next h =>
    rw [← hup, ← htie] at h
    push Not at h
    have habs : |((n / d : Nat) : ℚ) - ((n / d : Nat) + (n % d : Nat) / d)| = (n % d : Nat) / d := by
      rw [sub_add_cancel_left, abs_neg, abs_of_nonneg hrem0]
    rw [habs]
    exact ⟨h.1, fun heq => Nat.mod_two_ne_one.1 (h.2 heq)⟩

/-! ### The exact magnitude in its last place -/

variable (n d) (e : Int)

/-- The exact magnitude `n / d * 2 ^ e`, counted in the last place of its result. -/
def ulps : ℚ :=
  n / d * (2 : ℚ) ^ (e - f64LastPlace n d e)

/-- The last place of the result, counted from that of the subnormals. -/
def place : Nat :=
  (f64LastPlace n d e + 1074).toNat

/-- The significand of the result; 2^53 is a carry into the next place. -/
def roundedUlps : Nat :=
  divNearestEven (n * 2 ^ (e - f64LastPlace n d e).toNat) (d * 2 ^ (f64LastPlace n d e - e).toNat)

/-- The magnitude pattern of the result, unless it overflows. -/
def roundedMagnitude : Nat :=
  place n d e * 2 ^ 52 + roundedUlps n d e

theorem f64Round_eq (neg : Bool) : f64Round neg n d e =
    if f64InfMagnitude ≤ roundedMagnitude n d e then f64Inf neg else f64Pack neg (roundedMagnitude n d e) := rfl

theorem exact_eq_ulps : (n / d : ℚ) * (2 : ℚ) ^ e = ulps n d e * 2 ^ place n d e * (2 : ℚ) ^ (-1074 : Int) := by
  have hplace : ((place n d e : Nat) : Int) = f64LastPlace n d e + 1074 :=
    Int.toNat_of_nonneg (by have := le_max_right (ratioLog2 n d + e - 52) (-1074); unfold f64LastPlace; omega)
  rw [ulps, ← zpow_natCast, hplace, mul_assoc, mul_assoc, ← zpow_add₀ two_ne_zero, ← zpow_add₀ two_ne_zero]
  congr 2
  ring

variable {n d e}

theorem ulps_lt (hn : 0 < n) (hd : 0 < d) : ulps n d e < 2 ^ 53 := by
  have hlast : ratioLog2 n d + e - 52 ≤ f64LastPlace n d e := le_max_left _ _
  calc ulps n d e
    _ < 2 ^ (ratioLog2 n d + 1) * 2 ^ (e - f64LastPlace n d e) :=
      mul_lt_mul_of_pos_right (ratioLog2_spec hn hd).2 (zpow_pos two_pos _)
    _ = 2 ^ (ratioLog2 n d + 1 + (e - f64LastPlace n d e)) := (zpow_add₀ two_ne_zero _ _).symm
    _ ≤ 2 ^ (53 : Int) := zpow_le_zpow_right₀ one_le_two (by omega)
    _ = 2 ^ 53 := by norm_cast

/-- Above the place of the subnormals the exact magnitude has its leading bit 52 places up. -/
theorem ulps_ge (hn : 0 < n) (hd : 0 < d) : place n d e = 0 ∨ 2 ^ 52 ≤ ulps n d e := by
  rcases le_total (ratioLog2 n d + e - 52) (-1074) with h | h
  · left
    rw [place, f64LastPlace, max_eq_right h]
    rfl
  · right
    have hlast : f64LastPlace n d e = ratioLog2 n d + e - 52 := max_eq_left h
    calc (2 : ℚ) ^ 52 = 2 ^ (52 : Int) := by norm_cast
      _ = 2 ^ ratioLog2 n d * 2 ^ (e - f64LastPlace n d e) := by
        rw [← zpow_add₀ two_ne_zero, hlast]
        congr 1
        ring
      _ ≤ ulps n d e := mul_le_mul_of_nonneg_right (ratioLog2_spec hn hd).1 (zpow_pos two_pos _).le

theorem roundedUlps_spec (hd : 0 < d) : |(roundedUlps n d e : ℚ) - ulps n d e| ≤ 1 / 2 ∧
    (|(roundedUlps n d e : ℚ) - ulps n d e| = 1 / 2 → roundedUlps n d e % 2 = 0) := by
  have hulps : ulps n d e =
      (n * 2 ^ (e - f64LastPlace n d e).toNat : Nat) / (d * 2 ^ (f64LastPlace n d e - e).toNat : Nat) := by
    rw [ulps, zpow_eq_toNat_div, neg_sub, div_mul_div_comm]
    push_cast
    rfl
  rw [hulps]
  exact divNearestEven_spec (Nat.mul_pos hd (Nat.two_pow_pos _))

theorem roundedUlps_le (hn : 0 < n) (hd : 0 < d) : roundedUlps n d e ≤ 2 ^ 53 := by
  have hlt : ulps n d e < 2 ^ 53 := ulps_lt hn hd
  have hnear := abs_le.1 (roundedUlps_spec (n := n) (e := e) hd).1
  have hcast : (roundedUlps n d e : ℚ) < (2 ^ 53 + 1 : Nat) := by
    push_cast
    linarith [hnear.2]
  exact Nat.le_of_lt_succ (Nat.cast_lt.1 hcast)

theorem roundedUlps_ge (hn : 0 < n) (hd : 0 < d) : place n d e = 0 ∨ 2 ^ 52 ≤ roundedUlps n d e := by
  refine (ulps_ge hn hd).imp_right fun hge => ?_
  have hnear := abs_le.1 (roundedUlps_spec (n := n) (e := e) hd).1
  have hcast : ((2 ^ 52 : Nat) : ℚ) < (roundedUlps n d e + 1 : Nat) := by
    push_cast
    linarith [hnear.1]
  exact Nat.le_of_lt_succ (Nat.cast_lt.1 hcast)

/-! ### Overflow -/

/-- A result carries past the greatest significand exactly from half a last place above it: the tie goes up, because
that significand is odd. -/
theorem roundedUlps_carry_iff (hd : 0 < d) : 2 ^ 53 ≤ roundedUlps n d e ↔ (2 ^ 54 - 1 : ℚ) ≤ ulps n d e * 2 := by
  obtain ⟨hnear, heven⟩ := roundedUlps_spec (n := n) (e := e) hd
  obtain ⟨hlo, hhi⟩ := abs_le.1 hnear
  constructor
  · intro hm
    have hcast : ((2 ^ 53 : Nat) : ℚ) ≤ roundedUlps n d e := Nat.cast_le.2 hm
    push_cast at hcast
    linarith
  · intro hbig
    by_contra hlt
    have hcast : (roundedUlps n d e : ℚ) + 1 ≤ (2 ^ 53 : Nat) := by exact_mod_cast not_le.1 hlt
    push_cast at hcast
    have htie : |(roundedUlps n d e : ℚ) - ulps n d e| = 1 / 2 := by
      rw [abs_of_neg (by linarith)]
      linarith
    have hodd : (roundedUlps n d e : ℚ) = (2 ^ 53 - 1 : Nat) := by
      rw [Nat.cast_sub Nat.one_le_two_pow]
      push_cast
      linarith
    have heven' := heven htie
    rw [Nat.cast_inj.1 hodd] at heven'
    exact absurd heven' (by decide)

/-- The rounded magnitude reaches that of the infinities exactly when the exact one is half a last place above the
greatest finite number, or more; counted in units of `2 ^ -1074`. -/
theorem overflow_iff_ulps (hn : 0 < n) (hd : 0 < d) :
    f64InfMagnitude ≤ roundedMagnitude n d e ↔ (2 ^ 54 - 1 : ℚ) * 2 ^ 2044 ≤ ulps n d e * 2 ^ place n d e := by
  have hle : roundedUlps n d e ≤ 2 ^ 53 := roundedUlps_le hn hd
  unfold f64InfMagnitude roundedMagnitude
  rcases lt_trichotomy (place n d e) 2045 with h | h | h
  · refine iff_of_false (by omega) (not_le.2 ?_)
    calc ulps n d e * 2 ^ place n d e
      _ < 2 ^ 53 * 2 ^ place n d e := mul_lt_mul_of_pos_right (ulps_lt hn hd) (by positivity)
      _ ≤ (2 ^ 54 - 1) * 2 ^ 2044 :=
        mul_le_mul (by norm_num) (pow_le_pow_right₀ one_le_two (by omega)) (by positivity) (by norm_num)
  · have hscale : (2 ^ 54 - 1 : ℚ) * 2 ^ 2044 ≤ ulps n d e * 2 ^ place n d e ↔ (2 ^ 54 - 1 : ℚ) ≤ ulps n d e * 2 := by
      rw [h, pow_succ' (2 : ℚ) 2044, ← mul_assoc]
      exact mul_le_mul_iff_left₀ (by positivity)
    rw [hscale, ← roundedUlps_carry_iff hd]
    omega
  · have hge : 2 ^ 52 ≤ roundedUlps n d e := (roundedUlps_ge hn hd).resolve_left (by omega)
    have hge' : (2 : ℚ) ^ 52 ≤ ulps n d e := (ulps_ge hn hd).resolve_left (by omega)
    refine iff_of_true (by omega) ?_
    calc (2 ^ 54 - 1 : ℚ) * 2 ^ 2044
      _ ≤ 2 ^ 54 * 2 ^ 2044 := mul_le_mul_of_nonneg_right (by norm_num) (by positivity)
      _ = 2 ^ 52 * 2 ^ 2046 := by rw [← pow_add, ← pow_add]
      _ ≤ ulps n d e * 2 ^ place n d e :=
        mul_le_mul hge' (pow_le_pow_right₀ one_le_two h) (by positivity) (by linarith)

theorem overflow_iff (hn : 0 < n) (hd : 0 < d) :
    f64InfMagnitude ≤ roundedMagnitude n d e ↔ (2 ^ 54 - 1 : ℚ) * 2 ^ 970 ≤ n / d * (2 : ℚ) ^ e := by
  have hbound : (2 ^ 54 - 1 : ℚ) * 2 ^ 970 = (2 ^ 54 - 1) * 2 ^ 2044 * (2 : ℚ) ^ (-1074 : Int) := by
    rw [mul_assoc, ← zpow_natCast 2 970, ← zpow_natCast 2 2044, ← zpow_add₀ two_ne_zero]
    rfl
  rw [overflow_iff_ulps hn hd, hbound, exact_eq_ulps]
  exact (mul_le_mul_iff_left₀ (zpow_pos two_pos _)).symm

/-! ### No finite pattern is nearer -/

/-- A number counted in a last place that could stand for a finite pattern: an integer, or below the significands with a
leading bit 52 places up. -/
def Representable (k : Nat) (w : ℚ) : Prop :=
  (∃ z : Int, w = z) ∨ (k ≠ 0 ∧ w < 2 ^ 52)

/-- Every pattern, with any sign, is representable in every place: from its own place down it is an integer, and in a
higher place its significand is too small. -/
theorem representable_units (neg : Bool) (m k : Nat) : Representable k (signOf neg * f64Units m / 2 ^ k) := by
  obtain ⟨j, f, rfl, hf, hj⟩ := exists_place m
  rw [f64Units_place hf.le hj]
  push_cast
  rcases Nat.lt_or_ge j k with h | h
  · refine .inr ⟨by omega, ?_⟩
    have hf' : (f : ℚ) < 2 ^ 53 := by exact_mod_cast hf
    rw [div_lt_iff₀ (by positivity)]
    calc signOf neg * (f * 2 ^ j)
      _ ≤ 1 * (f * 2 ^ j) := mul_le_mul_of_nonneg_right (signOf_le_one neg) (by positivity)
      _ < 2 ^ 53 * 2 ^ j := by rw [one_mul]; exact mul_lt_mul_of_pos_right hf' (by positivity)
      _ = 2 ^ 52 * 2 ^ (j + 1) := by ring
      _ ≤ 2 ^ 52 * 2 ^ k := mul_le_mul_of_nonneg_left (pow_le_pow_right₀ one_le_two h) (by positivity)
  · obtain ⟨i, rfl⟩ := Nat.exists_eq_add_of_le h
    refine .inl ⟨(if neg then -1 else 1) * (f * 2 ^ i : Nat), ?_⟩
    rw [pow_add, mul_left_comm (f : ℚ), mul_left_comm, mul_div_cancel_left₀ _ (by positivity), signOf]
    push_cast
    rfl

theorem roundedUlps_nearest_int (hd : 0 < d) (z : Int) :
    |(roundedUlps n d e : ℚ) - ulps n d e| ≤ |z - ulps n d e| ∧
      (|(roundedUlps n d e : ℚ) - ulps n d e| = |z - ulps n d e| → (z : ℚ) ≠ roundedUlps n d e →
        roundedUlps n d e % 2 = 0) := by
  obtain ⟨hnear, heven⟩ := roundedUlps_spec (n := n) (e := e) hd
  by_cases hz : z = (roundedUlps n d e : Int)
  · subst hz
    exact ⟨le_rfl, fun _ hne => absurd rfl hne⟩
  · have hgap : (1 : ℚ) ≤ |(z : ℚ) - roundedUlps n d e| := by
      exact_mod_cast Int.one_le_abs (sub_ne_zero.2 hz)
    have htri : |(z : ℚ) - roundedUlps n d e| ≤ |(z : ℚ) - ulps n d e| + |(roundedUlps n d e : ℚ) - ulps n d e| := by
      rw [abs_sub_comm (roundedUlps n d e : ℚ)]
      exact abs_sub_le _ _ _
    have hfar : 1 / 2 ≤ |(z : ℚ) - ulps n d e| := by linarith
    exact ⟨hnear.trans hfar, fun heq _ => heven (le_antisymm hnear (heq ▸ hfar))⟩

/-- No representable number is nearer to the exact magnitude than the rounded one; where another is as near, the
rounded one is even. -/
theorem roundedUlps_nearest (hn : 0 < n) (hd : 0 < d) {w : ℚ} (hw : Representable (place n d e) w) :
    |(roundedUlps n d e : ℚ) - ulps n d e| ≤ |w - ulps n d e| ∧
      (|(roundedUlps n d e : ℚ) - ulps n d e| = |w - ulps n d e| → w ≠ roundedUlps n d e →
        roundedUlps n d e % 2 = 0) := by
  rcases hw with ⟨z, rfl⟩ | ⟨hplace, hsmall⟩
  · exact roundedUlps_nearest_int hd z
  · have hge : 2 ^ 52 ≤ ulps n d e := (ulps_ge hn hd).resolve_left hplace
    have hlt : |(roundedUlps n d e : ℚ) - ulps n d e| < |w - ulps n d e| := by
      refine (roundedUlps_nearest_int hd (2 ^ 52)).1.trans_lt ?_
      push_cast
      rw [abs_sub_comm, abs_of_nonneg (by linarith), abs_sub_comm, abs_of_pos (by linarith)]
      linarith
    exact ⟨hlt.le, fun heq => absurd heq hlt.ne⟩

/-! ### Patterns counted in a place -/

/-- The pattern `b`, counted in the place `k` along the sign `neg`. -/
def countedIn (neg : Bool) (k : Nat) (b : Word) : ℚ :=
  signOf (neg != f64Neg b) * f64Units (f64Magnitude b) / 2 ^ k

theorem f64Value_eq_countedIn (neg : Bool) (k : Nat) (b : Word) :
    f64Value b = signOf neg * (countedIn neg k b * (2 ^ k * (2 : ℚ) ^ (-1074 : Int))) := by
  rw [countedIn, f64Value_eq_units, ← mul_assoc _ (2 ^ k), div_mul_cancel₀ _ (by positivity), signOf_bne]
  rw [← mul_assoc, ← mul_assoc, ← mul_assoc, signOf_mul_self, one_mul]

/-- The distance of a pattern from the exact number, measured in its last place. -/
theorem abs_f64Value_sub_exact (neg : Bool) (n d : Nat) (e : Int) (b : Word) :
    |f64Value b - signedRatio neg n d e| =
      |countedIn neg (place n d e) b - ulps n d e| * (2 ^ place n d e * (2 : ℚ) ^ (-1074 : Int)) := by
  have hpos : (0 : ℚ) < 2 ^ place n d e * (2 : ℚ) ^ (-1074 : Int) := mul_pos (by positivity) (zpow_pos two_pos _)
  rw [f64Value_eq_countedIn neg (place n d e), signedRatio_eq, mul_assoc (signOf neg), exact_eq_ulps,
    mul_assoc (ulps n d e), ← mul_sub, ← sub_mul, abs_mul, abs_mul, abs_signOf, one_mul, abs_of_pos hpos]

variable {neg : Bool}

theorem roundedMagnitude_lt (hfin : ¬ f64InfMagnitude ≤ roundedMagnitude n d e) :
    roundedMagnitude n d e < 2 ^ 63 :=
  (not_le.1 hfin).trans (by decide)

theorem countedIn_pack (hn : 0 < n) (hd : 0 < d) (hfin : ¬ f64InfMagnitude ≤ roundedMagnitude n d e) :
    countedIn neg (place n d e) (f64Pack neg (roundedMagnitude n d e)) = roundedUlps n d e := by
  have hunits : f64Units (roundedMagnitude n d e) = roundedUlps n d e * 2 ^ place n d e :=
    f64Units_place (roundedUlps_le hn hd) (roundedUlps_ge hn hd)
  rw [countedIn, f64Pack_neg (roundedMagnitude_lt hfin), f64Pack_magnitude (roundedMagnitude_lt hfin), hunits]
  simp [signOf]

theorem pack_toNat_mod_two (hfin : ¬ f64InfMagnitude ≤ roundedMagnitude n d e) :
    (f64Pack neg (roundedMagnitude n d e)).toNat % 2 = roundedUlps n d e % 2 := by
  rw [f64Pack_toNat (roundedMagnitude_lt hfin), roundedMagnitude]
  cases neg <;> simp <;> omega

/-- No pattern is nearer to the exact number than a result that does not overflow, and where another number is as near,
the result is even. -/
theorem pack_nearest (hn : 0 < n) (hd : 0 < d) (hfin : ¬ f64InfMagnitude ≤ roundedMagnitude n d e) (g : Word) :
    |f64Value (f64Pack neg (roundedMagnitude n d e)) - signedRatio neg n d e| ≤
        |f64Value g - signedRatio neg n d e| ∧
      (|f64Value (f64Pack neg (roundedMagnitude n d e)) - signedRatio neg n d e| =
          |f64Value g - signedRatio neg n d e| →
        f64Value g ≠ f64Value (f64Pack neg (roundedMagnitude n d e)) →
        (f64Pack neg (roundedMagnitude n d e)).toNat % 2 = 0) := by
  have hpos : (0 : ℚ) < 2 ^ place n d e * (2 : ℚ) ^ (-1074 : Int) := mul_pos (by positivity) (zpow_pos two_pos _)
  have hrep : Representable (place n d e) (countedIn neg (place n d e) g) := representable_units ..
  obtain ⟨hnear, heven⟩ := roundedUlps_nearest hn hd hrep
  rw [abs_f64Value_sub_exact, abs_f64Value_sub_exact, countedIn_pack hn hd hfin, pack_toNat_mod_two hfin]
  refine ⟨mul_le_mul_of_nonneg_right hnear hpos.le, fun heq hne => ?_⟩
  refine heven (mul_right_cancel₀ hpos.ne' heq) fun hw => hne ?_
  rw [f64Value_eq_countedIn neg (place n d e) g, hw, f64Value_eq_countedIn neg (place n d e), countedIn_pack hn hd hfin]

end Exact

end Sys2Proof.Machine

namespace Sys2Proof.Claims

open Sys2Proof.Machine

/-- Settles O36: a result that does not overflow is its significand in its place, and every finite pattern is
representable there. -/
theorem roundingIsToNearestEven : Obligations.RoundingIsToNearestEven := by
  intro neg n d e hn hd
  rw [f64Round_eq, ← overflow_iff hn hd]
  by_cases hinf : f64InfMagnitude ≤ roundedMagnitude n d e
  · rw [if_pos hinf]
    have hfin : f64Finite (f64Inf neg) = false := by cases neg <;> decide
    exact ⟨by cases neg <;> decide, fun h => by simp [hfin] at h, fun _ => rfl, iff_of_true hfin hinf⟩
  · rw [if_neg hinf]
    have hfin : f64Finite (f64Pack neg (roundedMagnitude n d e)) = true := by
      rw [f64Finite, f64Pack_magnitude (roundedMagnitude_lt hinf)]
      exact decide_eq_true (not_le.1 hinf)
    exact ⟨f64Pack_neg (roundedMagnitude_lt hinf), fun _ g _ => pack_nearest hn hd hinf g, fun h => by simp [hfin] at h,
      iff_of_false (by simp [hfin]) hinf⟩

end Sys2Proof.Claims
end
